-- ==== Sys2Proof/Word.lean ====
section
/-! DEFINITION. The word types of the CHIP-8 core: bytes, 16-bit words, and the fields of an instruction
(spec 00_scope.md R10, R11, R14). Every value is unsigned. -/

namespace Sys2Proof

/-- An 8-bit value: a general register, a timer, a memory byte, an immediate `NN` (R8, R14). -/
abbrev Byte := BitVec 8

/-- A 16-bit value: `pc`, `I`, a call-stack entry, an instruction word (R8, R14). -/
abbrev Word := BitVec 16

/-- A 4-bit field taken as bits: the row count `N` of DXYN, the ignored nibble `n` of 5XYn and 9XYn (R14, R71). -/
abbrev Nibble := BitVec 4

/-- The 12-bit address field `NNN` (R14). -/
abbrev Addr12 := BitVec 12

/-- A register index 0x0 to 0xF. Every value names a real register (10_state.md R21). -/
abbrev Reg := Fin 16

/-- `VF`, the general register that is also the carry, borrow and collision flag (10_state.md R22). -/
abbrev vF : Reg := 15

end Sys2Proof
end

