-- ==== Sys2Proof/Config.lean ====
section
/-! DEFINITION. What is fixed for the machine and left free by the spec: the random byte the host supplies
(spec 46_host_interface.md R244). The parameters that the spec gives a default (00_scope.md R8: STACK_DEPTH,
FONT_BASE, FONT_DATA) are in Machine/Params.lean. -/

namespace Sys2Proof

/-- FREE VALUE (log 1). The `rnd` byte the host supplies to the step that executes the `n`-th RND (CXNN) of a run.
The spec puts it "under no law" (41_register_alu.md R143) and "places no constraint on it" (46_host_interface.md
R244), so it has no body: a claim that holds for this constant holds for every sequence of bytes. -/
opaque Config.hostRnd : Nat → Byte

end Sys2Proof
end

