-- ==== Sys2Proof/Machine/Params.lean ====
section
/-! DEFINITION. The parameters of the core that the spec leaves to the implementation and gives a default
(00_scope.md R8). Every operation that depends on one takes `p : Params` as a named argument whose default is
`Params.spec`, and Machine/Parametric.lean is the machine for any `p`. -/

namespace Sys2Proof.Machine

/-- `STACK_DEPTH`, the most entries the call stack holds (10_state.md R28; D4, log 3). DESIGN CHOICE of the spec. -/
def stackDepth : Nat := 16

/-- `FONT_BASE`, the address of glyph 0 (10_state.md R31; D6, log 4). PRESUMED. -/
def fontBase : Nat := 0x000

/-- `FONT_DATA`, sixteen glyphs of five bytes, one byte a row (10_state.md R31; D7, log 5). PRESUMED. -/
def fontData : List Byte :=
  [0xF0, 0x90, 0x90, 0x90, 0xF0, 0x20, 0x60, 0x20, 0x20, 0x70] ++   -- 0 1
  [0xF0, 0x10, 0xF0, 0x80, 0xF0, 0xF0, 0x10, 0xF0, 0x10, 0xF0] ++   -- 2 3
  [0x90, 0x90, 0xF0, 0x10, 0x10, 0xF0, 0x80, 0xF0, 0x10, 0xF0] ++   -- 4 5
  [0xF0, 0x80, 0xF0, 0x90, 0xF0, 0xF0, 0x10, 0x20, 0x40, 0x40] ++   -- 6 7
  [0xF0, 0x90, 0xF0, 0x90, 0xF0, 0xF0, 0x90, 0xF0, 0x10, 0xF0] ++   -- 8 9
  [0xF0, 0x90, 0xF0, 0x90, 0x90, 0xE0, 0x90, 0xE0, 0x90, 0xE0] ++   -- A B
  [0xF0, 0x80, 0x80, 0x80, 0xF0, 0xE0, 0x90, 0x90, 0x90, 0xE0] ++   -- C D
  [0xF0, 0x80, 0xF0, 0x80, 0xF0, 0xF0, 0x80, 0xF0, 0x80, 0x80]      -- E F

/-- The parameters of 00_scope.md R8 that are not fixed by the source. -/
structure Params where
  /-- `STACK_DEPTH`. -/
  stackDepth : Nat
  /-- `FONT_BASE`; R8 needs `FONT_BASE + 80 <= 0x200`. -/
  fontBase : Fin (0x200 - 80 + 1)
  /-- `FONT_DATA`, 80 bytes. -/
  fontData : Vector Byte 80
deriving DecidableEq, Repr

/-- The spec's defaults (R8; log 3, log 4, log 5). -/
def Params.spec : Params where
  stackDepth := Machine.stackDepth
  fontBase := ⟨Machine.fontBase, by decide⟩
  fontData := ⟨Machine.fontData.toArray, rfl⟩

end Sys2Proof.Machine
end

