-- ==== Sys2Proof/Machine/State.lean ====
section
/-! DEFINITION. The state of the core as plain data: the spec's state record (10_state.md R20), the model's own place
in the host's random bytes beside it, the reset value (R38), and the reasons a step could stop (none:
60_exceptions.md R260). The fields carry the spec's names. -/

namespace Sys2Proof.Machine

/-- The framebuffer, `FB[x][y]` with column x in 0..63 and row y in 0..31 (10_state.md R32). -/
abbrev Framebuffer := Vector (Vector Bool 32) 64

/-- The state record of 10_state.md R20: exactly its twelve fields. -/
structure Record where
  /-- The general registers V0 to VF; VF is also the flag (R21, R22). -/
  V : Vector Byte 16
  /-- The 16-bit address register (R27). -/
  I : Word
  /-- The 16-bit program counter (R25). -/
  pc : Word
  /-- The call stack, the newest entry first (R28). -/
  stack : List Word
  /-- The delay timer (R29). -/
  DT : Byte
  /-- The sound timer (R29). -/
  ST : Byte
  /-- Memory: the addresses whose byte differs from what construction left there (R30, R31; log 30). -/
  MEM : List Host.Cell
  /-- The framebuffer; true is a set pixel (R32). -/
  FB : Framebuffer
  /-- The keypad; true is a key that is down (R33). -/
  KEY : Vector Bool 16
  /-- The "should redraw" flag (R34). -/
  DIRTY : Bool
  /-- The size in bytes of the loaded program (R35). -/
  PROG_LEN : Nat
  /-- A program has been loaded (R35). -/
  LOADED : Bool
deriving DecidableEq, Repr

/-- What a step of the model runs on: the core's whole state, and beside it how far the run has come in the bytes the
host supplies. `rndCount` is no state of the core: it stands for the input `rnd` that the spec's `step(rnd)` takes
(46_host_interface.md R244), and no operation of the core's boundary reads or writes it (log 1, log 2). -/
structure State extends Record where
  /-- The model's own: how many free `rnd` bytes RND has taken so far. -/
  rndCount : Nat
deriving DecidableEq, Repr

/-- Why the machine could stop with a fault. The type has no constructor: the core raises no exception and every
error-like condition has a defined outcome (60_exceptions.md R260, R261; log 36). -/
inductive Fault where
deriving DecidableEq, Repr

/-- Why an instruction could have no meaning. -/
inductive Refusal where
  /-- The instruction of this mnemonic is not modelled yet. Raised only by an arm of `exec`; no arm raises it now.
  Safe: the model stops where the core goes on. -/
  | notModelled (mnemonic : String)
deriving DecidableEq, Repr

/-- How one step or one instruction ends. -/
abbrev Outcome := Host.Outcome State Fault Refusal

/-- The machine right after construction, its only reset (10_state.md R38, 70_reset_and_hazards.md R280 to R282).
Memory lists nothing: an unlisted address reads as construction leaves it, zero or a font byte (log 30). The values
of `stack`, `KEY`, `DIRTY`, `PROG_LEN` and `LOADED` are the spec's decisions (log 19, 20, 21). -/
def State.reset : State where
  V := Vector.replicate 16 0
  I := 0
  pc := 0x0200
  stack := []
  DT := 0
  ST := 0
  MEM := []
  FB := Vector.replicate 64 (Vector.replicate 32 false)
  KEY := Vector.replicate 16 false
  DIRTY := false
  PROG_LEN := 0
  LOADED := false
  rndCount := 0

end Sys2Proof.Machine
end

