-- ==== Sys2Proof/Machine/Ops.lean ====
section
/-! DEFINITION. The named operations over memory, registers, the program counter and the call stack, which every
meaning goes through. The core takes no exception and returns from none (60_exceptions.md R260, R264, R265), so
there is no operation for either. -/

namespace Sys2Proof.Machine

/-! ### Memory (20_memory.md) -/

/-- The address an access reaches: its low 12 bits (R52). -/
def Memory.addr (a : Nat) : Nat := a % 4096

/-- What an address reads as when nothing has written it: the font's byte, else zero (10_state.md R38,
70_reset_and_hazards.md R281). -/
def Memory.resetByte (a : Nat) (p : Params := .spec) : Byte :=
  if p.fontBase.val ≤ a then p.fontData.toList.getD (a - p.fontBase.val) 0 else 0

/-- The byte listed for an address already reduced, or what the address reads as unlisted. -/
def Memory.get (m : List Host.Cell) (a : Nat) (p : Params := .spec) : Byte :=
  match m with
  | [] => Memory.resetByte a p
  | c :: m => if c.1 = a then c.2 else Memory.get m a p

/-- Put a cell in its place in a list of rising addresses. -/
def Memory.insert (c : Host.Cell) : List Host.Cell → List Host.Cell
  | [] => [c]
  | d :: m => if c.1 < d.1 then c :: d :: m else d :: Memory.insert c m

/-- Set the byte of an address already reduced, keeping the canonical form: no entry for an address that reads as
it does unlisted. -/
def Memory.put (m : List Host.Cell) (a : Nat) (b : Byte) (p : Params := .spec) : List Host.Cell :=
  let rest := m.filter (fun c => c.1 ≠ a)
  if b = Memory.resetByte a p then rest else Memory.insert (a, b) rest

/-- `MemRead(a, 1)` (00_scope.md R12): the byte at the low 12 bits of `a`. -/
def Memory.read (m : List Host.Cell) (a : Nat) (p : Params := .spec) : Byte :=
  Memory.get m (Memory.addr a) p

/-- `MemWrite(a, 1, b)` (00_scope.md R12). -/
def Memory.write (m : List Host.Cell) (a : Nat) (b : Byte) (p : Params := .spec) : List Host.Cell :=
  Memory.put m (Memory.addr a) b p

/-- `MemWrite` of each byte in turn at `a`, `a + 1`, and so on, each address reduced on its own (R52). -/
def Memory.writeBytes (m : List Host.Cell) (a : Nat) (bs : List Byte) (p : Params := .spec) : List Host.Cell :=
  match bs with
  | [] => m
  | b :: bs => Memory.writeBytes (Memory.write m a b p) (a + 1) bs p

/-- The canonical form: addresses strictly rising and within the 4096 bytes, no entry equal to what its address
reads as unlisted. -/
abbrev Memory.wf (m : List Host.Cell) (p : Params := .spec) : Prop :=
  m.Pairwise (fun c d => c.1 < d.1) ∧ ∀ c ∈ m, c.1 < 4096 ∧ c.2 ≠ Memory.resetByte c.1 p

namespace State

/-- The byte at an address, in a state. -/
def readByte (s : State) (a : Nat) (p : Params := .spec) : Byte := Memory.read s.MEM a p

/-! ### Registers (00_scope.md R11) -/

/-- `V[k]`. -/
def readV (s : State) (k : Reg) : Byte := s.V[k.val]

/-- `V[k] <- b`. No register is hard-wired (10_state.md R21). -/
def setV (s : State) (k : Reg) (b : Byte) : State := { s with V := s.V.set k.val b }

/-- All sixteen registers replaced. -/
def setAllV (s : State) (v : Vector Byte 16) : State := { s with V := v }

/-- `I <- w`. -/
def setI (s : State) (w : Word) : State := { s with I := w }

/-- `pc <- w`. -/
def setPc (s : State) (w : Word) : State := { s with pc := w }

/-- The call stack replaced. -/
def setStack (s : State) (st : List Word) : State := { s with stack := st }

/-- `DT <- b`. -/
def setDT (s : State) (b : Byte) : State := { s with DT := b }

/-- `ST <- b`. -/
def setST (s : State) (b : Byte) : State := { s with ST := b }

/-- Memory replaced. -/
def setMEM (s : State) (m : List Host.Cell) : State := { s with MEM := m }

/-- The framebuffer replaced. -/
def setFB (s : State) (fb : Framebuffer) : State := { s with FB := fb }

/-- `KEY[k] <- b`. -/
def setKEY (s : State) (k : Fin 16) (b : Bool) : State := { s with KEY := s.KEY.set k.val b }

/-- `DIRTY <- b`. -/
def setDIRTY (s : State) (b : Bool) : State := { s with DIRTY := b }

/-- A program of `n` bytes has been loaded: `PROG_LEN <- n`, `LOADED <- 1` (10_state.md R35). -/
def setLoaded (s : State) (n : Nat) : State := { s with PROG_LEN := n, LOADED := true }

/-- One more free `rnd` byte has been taken (log 1). -/
def countRnd (s : State) : State := { s with rndCount := s.rndCount + 1 }

/-! ### Program counter (40_fetch_control.md R102) -/

/-- The default advance, `pc <- pc + 2` mod 2^16. -/
def advance (s : State) : State := s.setPc (s.pc + 2)

/-- A conditional skip: `pc + 4` when the condition holds, else `pc + 2`. -/
def skipIf (s : State) (c : Bool) : State := s.setPc (if c then s.pc + 4 else s.pc + 2)

/-! ### Call stack (R103 to R106) -/

/-- Push the address of the next instruction and go to `target`; write nothing when the stack is full (R103, R104;
log 7, log 8). -/
def callTo (s : State) (target : Word) (depth : Nat := stackDepth) : State :=
  if s.stack.length < depth then (s.setStack ((s.pc + 2) :: s.stack)).setPc target else s

/-- Pop the newest entry into `pc`; write nothing when the stack is empty (R105, R106; log 8). -/
def returnFromCall (s : State) : State :=
  match s.stack with
  | [] => s
  | a :: rest => (s.setStack rest).setPc a

end State

end Sys2Proof.Machine
end

