-- ==== Sys2Proof/Machine/Flags.lean ====
section
/-! DEFINITION. Every value the spec writes to VF as a flag (10_state.md R22), and the order in which a result and
its flag are written (41_register_alu.md R131). -/

namespace Sys2Proof.Machine

/-- A flag as the byte VF takes: 1 or 0. -/
def flagByte (c : Bool) : Byte := if c then 1 else 0

/-- The carry of an addition: the unsigned sum exceeds 255 (R138). -/
def carries (a b : Byte) : Bool := decide (a.toNat + b.toNat > 255)

/-- NOT borrow of `a - b`: false when `a < b`, unsigned (R139, R141). -/
def noBorrow (a b : Byte) : Bool := !decide (a.toNat < b.toNat)

/-- The bit a right shift by one moves out: bit 0 before the shift (R140). -/
def shiftedOutRight (a : Byte) : Bool := a.getLsbD 0

/-- The bit a left shift by one moves out: bit 7 before the shift (R142). -/
def shiftedOutLeft (a : Byte) : Bool := a.getLsbD 7

/-- `V[x] <- result`, then `VF <- flag`: the flag is written last and wins when `x` is F (R131; log 9). -/
def State.setResultAndFlag (s : State) (x : Reg) (result : Byte) (flag : Bool) : State :=
  (s.setV x result).setV vF (flagByte flag)

end Sys2Proof.Machine
end

