-- ==== Sys2Proof/Machine/Alu.lean ====
section
/-! DEFINITION. The register ALU (41_register_alu.md): the immediate forms, family 8 and RND. -/

namespace Sys2Proof.Machine

/-- LD Vx, NN (R132). -/
def execLdImm (x : Reg) (nn : Byte) (s : State) : Outcome := .next (s.setV x nn).advance

/-- ADD Vx, NN: mod 256, no flag (R133; log 11). -/
def execAddImm (x : Reg) (nn : Byte) (s : State) : Outcome := .next (s.setV x (s.readV x + nn)).advance

/-- LD Vx, Vy (R134). -/
def execLdReg (x y : Reg) (s : State) : Outcome := .next (s.setV x (s.readV y)).advance

/-- OR Vx, Vy; VF is no flag here (R135; log 10). -/
def execOrReg (x y : Reg) (s : State) : Outcome := .next (s.setV x (s.readV x ||| s.readV y)).advance

/-- AND Vx, Vy (R136; log 10). -/
def execAndReg (x y : Reg) (s : State) : Outcome := .next (s.setV x (s.readV x &&& s.readV y)).advance

/-- XOR Vx, Vy (R137; log 10). -/
def execXorReg (x y : Reg) (s : State) : Outcome := .next (s.setV x (s.readV x ^^^ s.readV y)).advance

/-- ADD Vx, Vy with carry (R138). -/
def execAddReg (x y : Reg) (s : State) : Outcome :=
  .next (s.setResultAndFlag x (s.readV x + s.readV y) (carries (s.readV x) (s.readV y))).advance

/-- SUB Vx, Vy with NOT borrow (R139). -/
def execSubReg (x y : Reg) (s : State) : Outcome :=
  .next (s.setResultAndFlag x (s.readV x - s.readV y) (noBorrow (s.readV x) (s.readV y))).advance

/-- SHR Vx: Vy is ignored (R140). -/
def execShr (x _y : Reg) (s : State) : Outcome :=
  .next (s.setResultAndFlag x (s.readV x >>> 1) (shiftedOutRight (s.readV x))).advance

/-- SUBN Vx, Vy: operands swapped (R141). -/
def execSubnReg (x y : Reg) (s : State) : Outcome :=
  .next (s.setResultAndFlag x (s.readV y - s.readV x) (noBorrow (s.readV y) (s.readV x))).advance

/-- SHL Vx: Vy is ignored (R142). -/
def execShl (x _y : Reg) (s : State) : Outcome :=
  .next (s.setResultAndFlag x (s.readV x <<< 1) (shiftedOutLeft (s.readV x))).advance

/-- What RND does with a given `rnd` byte: `V[x] <- rnd & NN` (R143). -/
def State.rndWith (s : State) (rnd : Byte) (x : Reg) (nn : Byte) : State := (s.setV x (rnd &&& nn)).advance

/-- RND Vx, NN with the free byte of this draw (R143, 46_host_interface.md R244; log 1). -/
def execRnd (x : Reg) (nn : Byte) (s : State) : Outcome :=
  .next (s.rndWith (Config.hostRnd s.rndCount) x nn).countRnd

end Sys2Proof.Machine
end

