-- ==== Sys2Proof/Machine/Control.lean ====
section
/-! DEFINITION. Control transfer (40_fetch_control.md): SYS, RET, JP, CALL, the four compare skips, JP V0, and the
unassigned words. -/

namespace Sys2Proof.Machine

/-- RET (R105, R106). -/
def execRet (s : State) : Outcome := .next s.returnFromCall

/-- SYS NNN: a no-op that advances (R113). -/
def execSys (_nnn : Addr12) (s : State) : Outcome := .next s.advance

/-- JP NNN: `pc <- zext_16(NNN)` (R107). -/
def execJp (nnn : Addr12) (s : State) : Outcome := .next (s.setPc (nnn.setWidth 16))

/-- CALL NNN (R103, R104). -/
def execCall (nnn : Addr12) (s : State) (p : Params := .spec) : Outcome :=
  .next (s.callTo (nnn.setWidth 16) p.stackDepth)

/-- SE Vx, NN (R109). -/
def execSeImm (x : Reg) (nn : Byte) (s : State) : Outcome := .next (s.skipIf (s.readV x == nn))

/-- SNE Vx, NN (R110). -/
def execSneImm (x : Reg) (nn : Byte) (s : State) : Outcome := .next (s.skipIf (s.readV x != nn))

/-- SE Vx, Vy, whatever the low nibble (R111, 30_encoding.md R79; log 22). -/
def execSeReg (x y : Reg) (_n : Nibble) (s : State) : Outcome := .next (s.skipIf (s.readV x == s.readV y))

/-- SNE Vx, Vy, whatever the low nibble (R112, 30_encoding.md R79; log 22). -/
def execSneReg (x y : Reg) (_n : Nibble) (s : State) : Outcome := .next (s.skipIf (s.readV x != s.readV y))

/-- JP V0, NNN: `pc <- zext_16(NNN) + zext_16(V[0])`, not masked to 12 bits (R108, C4). -/
def execJpV0 (nnn : Addr12) (s : State) : Outcome :=
  .next (s.setPc (nnn.setWidth 16 + (s.readV 0).setWidth 16))

/-- An unassigned word: a no-op that advances (R117). -/
def execUnassigned (_w : Word) (s : State) : Outcome := .next s.advance

end Sys2Proof.Machine
end

