-- ==== Sys2Proof/Machine/Display.lean ====
section
/-! DEFINITION. The framebuffer and its two instructions (42_display.md): CLS and the sprite draw. -/

namespace Sys2Proof.Machine

/-- The cleared framebuffer: every pixel unset (R161). -/
def blankScreen : Framebuffer := Vector.replicate 64 (Vector.replicate 32 false)

/-- `FB[x][y]`. -/
def pixelOf (fb : Framebuffer) (x : Fin 64) (y : Fin 32) : Bool := fb[x.val][y.val]

/-- `FB[x][y] <- FB[x][y] ^ 1`. -/
def flipPixel (fb : Framebuffer) (x : Fin 64) (y : Fin 32) : Framebuffer :=
  fb.set x.val (fb[x.val].set y.val (!pixelOf fb x y))

/-- A coordinate reduced to a column (R164). -/
def columnOf (x : Nat) : Fin 64 := ⟨x % 64, Nat.mod_lt _ (by decide)⟩

/-- A coordinate reduced to a row (R164). -/
def rowOfCoord (y : Nat) : Fin 32 := ⟨y % 32, Nat.mod_lt _ (by decide)⟩

/-- The draw in progress: the framebuffer so far, and whether a set pixel was hit (`hit` in R162). -/
structure Canvas where
  /-- The framebuffer so far. -/
  fb : Framebuffer
  /-- Some pixel drawn so far was set before it was flipped. -/
  hit : Bool
deriving DecidableEq, Repr

/-- Draw one set sprite bit at coordinates not yet reduced: test the pixel before the XOR, then flip it (R162,
R164, R165; log 15). -/
def drawBit (x y : Nat) (c : Canvas) : Canvas :=
  { fb := flipPixel c.fb (columnOf x) (rowOfCoord y), hit := c.hit || pixelOf c.fb (columnOf x) (rowOfCoord y) }

/-- The first `n` columns of one sprite row, left to right; bit 7 is the leftmost (R163; log 16). -/
def drawColumns (b : Byte) (x0 y : Nat) : Nat → Canvas → Canvas
  | 0, c => c
  | n + 1, c =>
    let c' := drawColumns b x0 y n c
    if b.getLsbD (7 - n) then drawBit (x0 + n) y c' else c'

/-- The first `n` rows of a sprite in memory at `a`, top to bottom (R162, R168). -/
def drawRows (m : List Host.Cell) (a x0 y0 n : Nat) (c : Canvas) (p : Params := .spec) : Canvas :=
  match n with
  | 0 => c
  | n + 1 => drawColumns (Memory.read m (a + n) p) x0 (y0 + n) 8 (drawRows m a x0 y0 n c p)

/-- CLS (R161): every pixel unset, DIRTY set even when nothing changed (log 17). -/
def execCls (s : State) : Outcome := .next ((s.setFB blankScreen).setDIRTY true).advance

/-- DRW Vx, Vy, N (R162 to R169). The coordinates, I and memory are read before VF is written. -/
def execDrw (x y : Reg) (n : Nibble) (s : State) (p : Params := .spec) : Outcome :=
  let c := drawRows s.MEM s.I.toNat (s.readV x).toNat (s.readV y).toNat n.toNat ⟨s.FB, false⟩ p
  .next (((s.setFB c.fb).setV vF (flagByte c.hit)).setDIRTY true).advance

end Sys2Proof.Machine
end

