-- ==== Sys2Proof/Machine/Operands.lean ====
section
/-! DEFINITION. The operand forms: the effective address of an element (44_memory_transfer.md R206), the glyph
address (R202), the decimal digits (R203), the register range of the block transfers (R204, R205), and a key named
by a value (43_keypad.md R181, R182). -/

namespace Sys2Proof.Machine

/-- The address of element `k` of an access through `I`: `(I + k) mod 4096` (R206). -/
def State.elementAddr (s : State) (k : Nat) : Nat := Memory.addr (s.I.toNat + k)

/-- `FONT_BASE + 5 * v` mod 2^16, with `v` in full (R202). -/
def glyphAddress (v : Byte) (base : Nat := fontBase) : Word := BitVec.ofNat 16 (base + 5 * v.toNat)

/-- The hundreds, tens and ones of a byte (R203). -/
def bcdDigits (v : Byte) : List Byte :=
  [BitVec.ofNat 8 (v.toNat / 100), BitVec.ofNat 8 (v.toNat / 10 % 10), BitVec.ofNat 8 (v.toNat % 10)]

/-- `V[0]` to `V[x]` inclusive, in order (R204). -/
def State.firstRegs (s : State) (x : Reg) : List Byte := s.V.toList.take (x.val + 1)

/-- The registers after `V[0..x]` are loaded from memory at `I` (R205): the others keep their value. -/
def State.loadFirstRegs (s : State) (x : Reg) (p : Params := .spec) : Vector Byte 16 :=
  Vector.ofFn fun k => if k ≤ x then s.readByte (s.I.toNat + k.val) p else s.readV k

/-- Key `v` is down: `v <= 0xF` and `KEY[v] = 1` (R181; log 14). -/
def State.keyIsDown (s : State) (v : Nat) : Bool := if h : v < 16 then s.KEY[v] else false

/-- The smallest key that is down, if any is (R182; log 13). -/
def State.lowestKey (s : State) : Option Nat := (List.range 16).find? s.keyIsDown

end Sys2Proof.Machine
end

