-- ==== Sys2Proof/Machine/Keypad.lean ====
section
/-! DEFINITION. The instructions that read the keypad (43_keypad.md). -/

namespace Sys2Proof.Machine

/-- SKP Vx (R183). -/
def execSkp (x : Reg) (s : State) : Outcome := .next (s.skipIf (s.keyIsDown (s.readV x).toNat))

/-- SKNP Vx (R184). -/
def execSknp (x : Reg) (s : State) : Outcome := .next (s.skipIf (!s.keyIsDown (s.readV x).toNat))

/-- LD Vx, K (R182): with no key down nothing is written and pc stays, so the next step runs it again (log 29);
else the smallest key that is down (log 13). -/
def execLdVxK (x : Reg) (s : State) : Outcome :=
  match s.lowestKey with
  | none => .next s
  | some k => .next (s.setV x (BitVec.ofNat 8 k)).advance

end Sys2Proof.Machine
end

