-- ==== Sys2Proof/Machine/Timers.lean ====
section
/-! DEFINITION. The instructions that move values to and from the timers (45_timers.md). -/

namespace Sys2Proof.Machine

/-- LD Vx, DT (R222). -/
def execLdVxDT (x : Reg) (s : State) : Outcome := .next (s.setV x s.DT).advance

/-- LD DT, Vx (R223). -/
def execLdDTVx (x : Reg) (s : State) : Outcome := .next (s.setDT (s.readV x)).advance

/-- LD ST, Vx (R224). -/
def execLdSTVx (x : Reg) (s : State) : Outcome := .next (s.setST (s.readV x)).advance

end Sys2Proof.Machine
end

