-- ==== Sys2Proof/Machine/Transfer.lean ====
section
/-! DEFINITION. The address register and memory transfer (44_memory_transfer.md). -/

namespace Sys2Proof.Machine

/-- LD I, NNN (R200). -/
def execLdI (nnn : Addr12) (s : State) : Outcome := .next (s.setI (nnn.setWidth 16)).advance

/-- ADD I, Vx: mod 2^16, no flag (R201). -/
def execAddI (x : Reg) (s : State) : Outcome := .next (s.setI (s.I + (s.readV x).setWidth 16)).advance

/-- LD F, Vx (R202). -/
def execLdF (x : Reg) (s : State) (p : Params := .spec) : Outcome :=
  .next (s.setI (glyphAddress (s.readV x) p.fontBase.val)).advance

/-- LD B, Vx: three decimal digits to memory at I (R203). -/
def execLdB (x : Reg) (s : State) (p : Params := .spec) : Outcome :=
  .next (s.setMEM (Memory.writeBytes s.MEM s.I.toNat (bcdDigits (s.readV x)) p)).advance

/-- LD [I], Vx: V0 to Vx inclusive to memory at I; I is kept (R204, R206; log 12). -/
def execStRegs (x : Reg) (s : State) (p : Params := .spec) : Outcome :=
  .next (s.setMEM (Memory.writeBytes s.MEM s.I.toNat (s.firstRegs x) p)).advance

/-- LD Vx, [I]: V0 to Vx inclusive from memory at I; I is kept (R205, R206; log 12, log 34). -/
def execLdRegs (x : Reg) (s : State) (p : Params := .spec) : Outcome :=
  .next (s.setAllV (s.loadFirstRegs x p)).advance

end Sys2Proof.Machine
end

