-- ==== Sys2Proof/Syntax.lean ====
section
/-! DEFINITION. The instructions: one constructor per row of spec/opcode_table.json (30_encoding.md R73), with the
operand fields of R71. Bits the core ignores are kept as operands, so that no bit of a word is lost (log 22). -/

namespace Sys2Proof

/-- The 35 instructions of R73 and, last, the unassigned words of R80. -/
inductive Instr where
  /-- `CLS`, 00E0. -/
  | cls
  /-- `RET`, 00EE. -/
  | ret
  /-- `SYS NNN`, 0NNN other than 00E0 and 00EE; `nnn` is ignored. -/
  | sys (nnn : Addr12)
  /-- `JP NNN`, 1NNN. -/
  | jp (nnn : Addr12)
  /-- `CALL NNN`, 2NNN. -/
  | call (nnn : Addr12)
  /-- `SE Vx, NN`, 3XNN. -/
  | seImm (x : Reg) (nn : Byte)
  /-- `SNE Vx, NN`, 4XNN. -/
  | sneImm (x : Reg) (nn : Byte)
  /-- `SE Vx, Vy`, 5XYn; the low nibble `n` is ignored (R79). -/
  | seReg (x y : Reg) (n : Nibble)
  /-- `LD Vx, NN`, 6XNN. -/
  | ldImm (x : Reg) (nn : Byte)
  /-- `ADD Vx, NN`, 7XNN. -/
  | addImm (x : Reg) (nn : Byte)
  /-- `LD Vx, Vy`, 8XY0. -/
  | ldReg (x y : Reg)
  /-- `OR Vx, Vy`, 8XY1. -/
  | orReg (x y : Reg)
  /-- `AND Vx, Vy`, 8XY2. -/
  | andReg (x y : Reg)
  /-- `XOR Vx, Vy`, 8XY3. -/
  | xorReg (x y : Reg)
  /-- `ADD Vx, Vy`, 8XY4. -/
  | addReg (x y : Reg)
  /-- `SUB Vx, Vy`, 8XY5. -/
  | subReg (x y : Reg)
  /-- `SHR Vx {, Vy}`, 8XY6; `y` is ignored (41_register_alu.md R140). -/
  | shr (x y : Reg)
  /-- `SUBN Vx, Vy`, 8XY7. -/
  | subnReg (x y : Reg)
  /-- `SHL Vx {, Vy}`, 8XYE; `y` is ignored (R142). -/
  | shl (x y : Reg)
  /-- `SNE Vx, Vy`, 9XYn; the low nibble `n` is ignored (R79). -/
  | sneReg (x y : Reg) (n : Nibble)
  /-- `LD I, NNN`, ANNN. -/
  | ldI (nnn : Addr12)
  /-- `JP V0, NNN`, BNNN. -/
  | jpV0 (nnn : Addr12)
  /-- `RND Vx, NN`, CXNN. -/
  | rnd (x : Reg) (nn : Byte)
  /-- `DRW Vx, Vy, N`, DXYN; `n` is the number of sprite rows. -/
  | drw (x y : Reg) (n : Nibble)
  /-- `SKP Vx`, EX9E. -/
  | skp (x : Reg)
  /-- `SKNP Vx`, EXA1. -/
  | sknp (x : Reg)
  /-- `LD Vx, DT`, FX07. -/
  | ldVxDT (x : Reg)
  /-- `LD Vx, K`, FX0A. -/
  | ldVxK (x : Reg)
  /-- `LD DT, Vx`, FX15. -/
  | ldDTVx (x : Reg)
  /-- `LD ST, Vx`, FX18. -/
  | ldSTVx (x : Reg)
  /-- `ADD I, Vx`, FX1E. -/
  | addI (x : Reg)
  /-- `LD F, Vx`, FX29. -/
  | ldF (x : Reg)
  /-- `LD B, Vx`, FX33. -/
  | ldB (x : Reg)
  /-- `LD [I], Vx`, FX55. -/
  | stRegs (x : Reg)
  /-- `LD Vx, [I]`, FX65. -/
  | ldRegs (x : Reg)
  /-- A word no other row matches (R80), kept whole. -/
  | unassigned (w : Word)
deriving DecidableEq, Repr

end Sys2Proof
end

