-- ==== Sys2Proof/WellFormed.lean ====
section
/-! DEFINITION. Which terms of `Instr` stand for a word of the opcode map. The types of the operands already bound
every field. Two checks remain: SYS is any 0NNN but the two literal words (30_encoding.md R75), and `unassigned`
holds a word of R80. -/

namespace Sys2Proof

/-- The unassigned words, listed as R80 lists them: 8XYf for f in 8 to D and F, EXff for ff other than 9E and A1,
FXff for ff other than the nine of R78. -/
def isUnassignedWord (w : Word) : Bool :=
  let family := (w.extractLsb' 12 4).toNat
  let f := (w.extractLsb' 0 4).toNat
  let ff := (w.extractLsb' 0 8).toNat
  (family == 0x8 && [0x8, 0x9, 0xA, 0xB, 0xC, 0xD, 0xF].contains f)
    || (family == 0xE && !([0x9E, 0xA1].contains ff))
    || (family == 0xF && !([0x07, 0x0A, 0x15, 0x18, 0x1E, 0x29, 0x33, 0x55, 0x65].contains ff))

/-- A well-formed instruction: a term that some 16-bit word decodes to. -/
def Instr.wf : Instr → Bool
  | .cls => true
  | .ret => true
  | .sys nnn => nnn != 0x0E0 && nnn != 0x0EE
  | .jp _ => true
  | .call _ => true
  | .seImm _ _ => true
  | .sneImm _ _ => true
  | .seReg _ _ _ => true
  | .ldImm _ _ => true
  | .addImm _ _ => true
  | .ldReg _ _ => true
  | .orReg _ _ => true
  | .andReg _ _ => true
  | .xorReg _ _ => true
  | .addReg _ _ => true
  | .subReg _ _ => true
  | .shr _ _ => true
  | .subnReg _ _ => true
  | .shl _ _ => true
  | .sneReg _ _ _ => true
  | .ldI _ => true
  | .jpV0 _ => true
  | .rnd _ _ => true
  | .drw _ _ _ => true
  | .skp _ => true
  | .sknp _ => true
  | .ldVxDT _ => true
  | .ldVxK _ => true
  | .ldDTVx _ => true
  | .ldSTVx _ => true
  | .addI _ => true
  | .ldF _ => true
  | .ldB _ => true
  | .stRegs _ => true
  | .ldRegs _ => true
  | .unassigned w => isUnassignedWord w

end Sys2Proof
end

