-- ==== Sys2Proof/Machine/Fetch.lean ====
section
/-! DEFINITION. What a step does before it executes: the end-of-program test and the fetch
(40_fetch_control.md R100, R101; 20_memory.md R55). -/

namespace Sys2Proof.Machine

/-- `PROG_END = 0x200 + PROG_LEN` (10_state.md R35). -/
def State.progEnd (s : State) : Nat := 0x200 + s.PROG_LEN

/-- The terminal condition `pc >= PROG_END`, unsigned (R101; log 18). -/
def State.ended (s : State) : Bool := decide (s.progEnd ≤ s.pc.toNat)

/-- `Fetch(pc)`: the bytes at `pc` and `pc + 1`, each address reduced on its own, high byte first (R55; log 6). -/
def State.fetchWord (s : State) (p : Params := .spec) : Word :=
  wordOfBytes (s.readByte s.pc.toNat p) (s.readByte (s.pc.toNat + 1) p)

/-- The instruction at `pc`. -/
def State.fetchInstr (s : State) (p : Params := .spec) : Instr := decodeWord (s.fetchWord p)

end Sys2Proof.Machine
end

