-- ==== Sys2Proof/Machine/Step.lean ====
section
/-! DEFINITION. One step of the core (40_fetch_control.md R100), and how the host's tools place one instruction. -/

namespace Sys2Proof.Machine

/-- One `step()` of the core. At or past the program's end nothing is written, now or at any later step (R101;
log 18); else the instruction at `pc` executes. Every handler advances `pc` itself (R100). -/
def step (s : State) : Host.Outcome State Fault Refusal :=
  if s.ended then .next s else exec s.fetchInstr s

/-- The state with the instruction word `w` placed where the next step fetches. Where the program would have ended,
a full-size program is loaded; a `pc` of 0x1000 or more, which no program reaches (R102), first takes its low 12
bits, the address it presents to memory (10_state.md R25; log 28). -/
def State.withFetchWord (s : State) (nbits w : Nat) : State :=
  let pc : Word := if s.pc.toNat < 0x1000 then s.pc else s.pc &&& 0x0FFF
  let placed : State :=
    { s with pc := pc, MEM := Memory.writeBytes s.MEM pc.toNat (bytesOfWord (BitVec.ofNat 16 (w % 2 ^ nbits))) }
  if placed.ended then { placed with PROG_LEN := 0xE00, LOADED := true } else placed

end Sys2Proof.Machine
end

