-- ==== Sys2Proof/Machine/Parametric.lean ====
section
/-! DEFINITION. The machine for any values of the parameters STACK_DEPTH, FONT_BASE and FONT_DATA (00_scope.md R8,
10_state.md R28, R31). `exec`, `step` and `core` are this machine at the spec's defaults (`execAt_spec`, `stepAt_spec`
in Laws/Step.lean). -/

namespace Sys2Proof.Machine

/-- `exec` under the parameters `p`: the six instructions that depend on one of them get `p`, and every other is as
`exec` has it. -/
def execAt (p : Params) (i : Instr) (s : State) : Outcome :=
  match i with
  | .call nnn => execCall nnn s p
  | .drw x y n => execDrw x y n s p
  | .ldF x => execLdF x s p
  | .ldB x => execLdB x s p
  | .stRegs x => execStRegs x s p
  | .ldRegs x => execLdRegs x s p
  | i => exec i s

/-- `step` under the parameters `p` (40_fetch_control.md R100). -/
def stepAt (p : Params) (s : State) : Outcome :=
  if s.ended then .next s else execAt p (s.fetchInstr p) s

/-- The machine under the parameters `p`. Reset lists no memory cell whatever `p` is, since an unlisted address reads
as the font `p` gives, or zero (10_state.md R38; log 30). -/
def coreAt (p : Params) : Host.Core :=
  { State := State, Fault := Fault, Refusal := Refusal, step := stepAt p, reset := State.reset }

end Sys2Proof.Machine
end

