-- ==== Sys2Proof/Machine/HostOps.lean ====
section
/-! DEFINITION. The core's boundary: the nine operations the host issues (46_host_interface.md R240), each one
atomic transaction on the state (20_memory.md R62), and the result each gives. -/

namespace Sys2Proof.Machine

/-- What one `step()` tells the host (R243). -/
inductive StepResult where
  /-- An instruction completed, or a CALL or RET failed (40_fetch_control.md R104, R105). -/
  | continued
  /-- FX0A found no key down and nothing was written (43_keypad.md R182). -/
  | awaitingKey
  /-- `pc >= PROG_END`, after the instruction or before the fetch (40_fetch_control.md R101). -/
  | programEnded
deriving DecidableEq, Repr

/-- The operations of R240. -/
inductive HostOp where
  /-- `load_program(bytes)` (R241, R242). -/
  | loadProgram (bytes : List Byte)
  /-- `step(rnd)` (40_fetch_control.md R100, R244). -/
  | step (rnd : Byte)
  /-- `tick_timers()` (45_timers.md R221). -/
  | tickTimers
  /-- `key_down(code)`, any natural number (43_keypad.md R185, R187; log 24). -/
  | keyDown (code : Nat)
  /-- `key_up(code)`, any natural number (43_keypad.md R186, R187; log 24). -/
  | keyUp (code : Nat)
  /-- `framebuffer()` (R245). -/
  | framebuffer
  /-- `dirty()` (R245). -/
  | dirty
  /-- `clear_dirty()` (R246). -/
  | clearDirty
  /-- `sound_timer()` (R247). -/
  | soundTimer
deriving DecidableEq, Repr

/-- The results of R240. -/
inductive HostResult where
  /-- `Ok`, or an operation with no result. -/
  | ok
  /-- The image is too large or a program is already loaded (R242). -/
  | loadError
  /-- The key code is above 0xF (43_keypad.md R187). -/
  | invalidKey
  /-- The result of a step (R243). -/
  | stepped (r : StepResult)
  /-- The framebuffer (R245). -/
  | grid (fb : Framebuffer)
  /-- The bit DIRTY (R245). -/
  | bit (b : Bool)
  /-- The byte ST (R247). -/
  | byte (b : Byte)
deriving DecidableEq, Repr

/-- How a host operation ends: its result and the next state, or the stop of a step. -/
abbrev OpOutcome := Host.Outcome (HostResult × State) Fault Refusal

/-- The second end-of-program test of R100, on the `pc` the instruction left. -/
def resultAfter (t : State) : StepResult := if t.ended then .programEnded else .continued

/-- The result and next state of an instruction that completed. -/
def finishStep : Outcome → OpOutcome
  | .next t => .next (.stepped (resultAfter t), t)
  | .fault f => .fault f
  | .refused r => .refused r

/-- `step(rnd)` as R100 and R263 write it: the test before the fetch, the key wait, then the instruction. RND alone
reads `rnd` (R244). -/
def stepWith (rnd : Byte) (s : State) (p : Params := .spec) : OpOutcome :=
  if s.ended then .next (.stepped .programEnded, s)
  else
    match s.fetchInstr p with
    | .rnd x nn => finishStep (.next (s.rndWith rnd x nn))
    | .ldVxK x => if s.lowestKey = none then .next (.stepped .awaitingKey, s) else finishStep (exec (.ldVxK x) s)
    | i => finishStep (execAt p i s)

/-- `load_program(bytes)` (R241): copies the image to 0x200 and records its size, once, if it fits (R242; log 20). -/
def loadProgram (bytes : List Byte) (s : State) (p : Params := .spec) : HostResult × State :=
  if s.LOADED = true ∨ 0xE00 < bytes.length then (.loadError, s)
  else (.ok, (s.setMEM (Memory.writeBytes s.MEM 0x200 bytes p)).setLoaded bytes.length)

/-- One decrement, clamped at 0 (45_timers.md R221). -/
def countDown (b : Byte) : Byte := if b = 0 then 0 else b - 1

/-- `tick_timers()`: both counters, each on its own (45_timers.md R221). -/
def tickTimers (s : State) : State := (s.setDT (countDown s.DT)).setST (countDown s.ST)

/-- `key_down` and `key_up`: one key's flag, or InvalidKey with nothing written (43_keypad.md R185 to R187). -/
def setKey (code : Nat) (down : Bool) (s : State) : HostResult × State :=
  if h : code < 16 then (.ok, s.setKEY ⟨code, h⟩ down) else (.invalidKey, s)

/-- What an operation does (R240). -/
def applyOp (op : HostOp) (s : State) (p : Params := .spec) : OpOutcome :=
  match op with
  | .loadProgram bytes => .next (loadProgram bytes s p)
  | .step rnd => stepWith rnd s p
  | .tickTimers => .next (.ok, tickTimers s)
  | .keyDown code => .next (setKey code true s)
  | .keyUp code => .next (setKey code false s)
  | .framebuffer => .next (.grid s.FB, s)
  | .dirty => .next (.bit s.DIRTY, s)
  | .clearDirty => .next (.ok, s.setDIRTY false)
  | .soundTimer => .next (.byte s.ST, s)

/-- The operation on the spec's state record alone (10_state.md R20): the model's counter plays no part in it
(`recordOp_of_applyOp` in Laws/Parametric.lean). -/
def recordOp (op : HostOp) (r : Record) (p : Params := .spec) : Host.Outcome (HostResult × Record) Fault Refusal :=
  match applyOp op { toRecord := r, rndCount := 0 } p with
  | .next (a, t) => .next (a, t.toRecord)
  | .fault f => .fault f
  | .refused f => .refused f

/-- `step(rnd)` on the spec's state record alone (40_fetch_control.md R100), without its result. -/
def recordStep (rnd : Byte) (r : Record) (p : Params := .spec) : Host.Outcome Record Fault Refusal :=
  match recordOp (.step rnd) r p with
  | .next (_, t) => .next t
  | .fault f => .fault f
  | .refused f => .refused f

/-- The machine as the spec has it: its state type is the record of 10_state.md R20 and nothing else, and `rnd` is the
input of its step (46_host_interface.md R244). `Sys2Proof.core` is this machine with the free bytes supplied one after
the other (`recordStep_of_stepAt` in Laws/Parametric.lean; log 1). -/
def recordCore (rnd : Byte) (p : Params := .spec) : Host.Core :=
  { State := Record, Fault := Fault, Refusal := Refusal, step := fun r => recordStep rnd r p,
    reset := State.reset.toRecord }

/-- The state after a list of operations, issued in order (20_memory.md R62). -/
def runOps (ops : List HostOp) (s : State) (p : Params := .spec) : Outcome :=
  match ops with
  | [] => .next s
  | op :: ops =>
    match applyOp op s p with
    | .next (_, t) => runOps ops t p
    | .fault f => .fault f
    | .refused r => .refused r

end Sys2Proof.Machine
end

