-- ==== Sys2Proof/Safety.lean ====
section
/-! DEFINITION. The words the claims use: the invariant of the state, the named parts of the machine and what a frame
is, which parts each instruction may write, which pixels a sprite covers, and what a safe run is. -/

namespace Sys2Proof.Machine

/-- The invariant of every reachable state: memory in canonical form, the call stack within its depth
(10_state.md R28), the program within memory (R35), and no program length before a program is loaded (R38). -/
abbrev State.Inv (s : State) (p : Params := .spec) : Prop :=
  Memory.wf s.MEM p ∧ s.stack.length ≤ p.stackDepth ∧ s.PROG_LEN ≤ 0xE00 ∧ (s.LOADED = false → s.PROG_LEN = 0)

/-- A safe run of host operations: it does not stop, and it ends in a state that meets the invariant. -/
def SafeRun (ops : List HostOp) (s : State) : Prop := ∃ t, runOps ops s = .next t ∧ t.Inv

/-! ### Frames -/

/-- The named parts of the machine: every register, byte, pixel, key and other field of the state (10_state.md
R20), and the model's own counter. -/
inductive Part where
  /-- General register `V[k]`. -/
  | v (k : Reg)
  /-- The address register. -/
  | i
  /-- The program counter. -/
  | pc
  /-- The call stack. -/
  | stack
  /-- The delay timer. -/
  | dt
  /-- The sound timer. -/
  | st
  /-- The byte an access at `a` reaches. -/
  | mem (a : Nat)
  /-- The pixel `FB[x][y]`. -/
  | pixel (x : Fin 64) (y : Fin 32)
  /-- `KEY[k]`. -/
  | key (k : Fin 16)
  /-- The dirty flag. -/
  | dirty
  /-- `PROG_LEN`. -/
  | progLen
  /-- `LOADED`. -/
  | loaded
  /-- The model's count of free `rnd` bytes taken (log 1). -/
  | rndCount
deriving DecidableEq, Repr

/-- A part has the same value in two states. -/
def Part.same (s t : State) : Part → Prop
  | .v k => t.readV k = s.readV k
  | .i => t.I = s.I
  | .pc => t.pc = s.pc
  | .stack => t.stack = s.stack
  | .dt => t.DT = s.DT
  | .st => t.ST = s.ST
  | .mem a => t.readByte a = s.readByte a
  | .pixel x y => pixelOf t.FB x y = pixelOf s.FB x y
  | .key k => t.KEY[k.val] = s.KEY[k.val]
  | .dirty => t.DIRTY = s.DIRTY
  | .progLen => t.PROG_LEN = s.PROG_LEN
  | .loaded => t.LOADED = s.LOADED
  | .rndCount => t.rndCount = s.rndCount

/-- A frame: every part but the allowed ones has in `t` the value it had in `s`. -/
def ChangesOnly (allowed : Part → Prop) (s t : State) : Prop := ∀ p, ¬ allowed p → p.same s t

/-- The parts of a list. -/
def among (ps : List Part) : Part → Prop := fun p => p ∈ ps

/-- `pc`, or one of the `n` bytes at `I` (44_memory_transfer.md R206). -/
def pcOrBytesAtI (s : State) (n : Nat) : Part → Prop
  | .pc => True
  | .mem a => ∃ k < n, Memory.addr a = s.elementAddr k
  | _ => False

/-- `pc`, or one of V0 to Vx (44_memory_transfer.md R205). -/
def pcOrFirstRegs (x : Reg) : Part → Prop
  | .pc => True
  | .v k => k ≤ x
  | _ => False

/-- `pc`, DIRTY, any pixel, and VF where `flag` says so (42_display.md R161, R162). -/
def pcOrDisplay (flag : Bool) : Part → Prop
  | .pc => True
  | .dirty => True
  | .pixel _ _ => True
  | .v k => k = vF ∧ flag = true
  | _ => False

/-- What each instruction may write, read off 10_state.md R22, R24, R27 to R35 and 20_memory.md R51. -/
def mayWrite (s : State) : Instr → Part → Prop
  | .cls => pcOrDisplay false
  | .ret => among [.pc, .stack]
  | .sys _ => among [.pc]
  | .jp _ => among [.pc]
  | .call _ => among [.pc, .stack]
  | .seImm _ _ => among [.pc]
  | .sneImm _ _ => among [.pc]
  | .seReg _ _ _ => among [.pc]
  | .ldImm x _ => among [.pc, .v x]
  | .addImm x _ => among [.pc, .v x]
  | .ldReg x _ => among [.pc, .v x]
  | .orReg x _ => among [.pc, .v x]
  | .andReg x _ => among [.pc, .v x]
  | .xorReg x _ => among [.pc, .v x]
  | .addReg x _ => among [.pc, .v x, .v vF]
  | .subReg x _ => among [.pc, .v x, .v vF]
  | .shr x _ => among [.pc, .v x, .v vF]
  | .subnReg x _ => among [.pc, .v x, .v vF]
  | .shl x _ => among [.pc, .v x, .v vF]
  | .sneReg _ _ _ => among [.pc]
  | .ldI _ => among [.pc, .i]
  | .jpV0 _ => among [.pc]
  | .rnd x _ => among [.pc, .v x, .rndCount]
  | .drw _ _ _ => pcOrDisplay true
  | .skp _ => among [.pc]
  | .sknp _ => among [.pc]
  | .ldVxDT x => among [.pc, .v x]
  | .ldVxK x => among [.pc, .v x]
  | .ldDTVx _ => among [.pc, .dt]
  | .ldSTVx _ => among [.pc, .st]
  | .addI _ => among [.pc, .i]
  | .ldF _ => among [.pc, .i]
  | .ldB _ => pcOrBytesAtI s 3
  | .stRegs x => pcOrBytesAtI s (x.val + 1)
  | .ldRegs x => pcOrFirstRegs x
  | .unassigned _ => among [.pc]

/-! ### The opcode table -/

/-- The number of 1 bits of a row's mask (30_encoding.md R81). -/
def maskBits (mask : Word) : Nat := (List.range 16).countP mask.getLsbD

/-! ### Control flow -/

/-- The instructions that always go on to the next word: no skip, jump, call or return, and no key wait
(40_fetch_control.md R102). -/
def goesOn : Instr → Bool
  | .cls => true
  | .ret => false
  | .sys _ => true
  | .jp _ => false
  | .call _ => false
  | .seImm _ _ => false
  | .sneImm _ _ => false
  | .seReg _ _ _ => false
  | .ldImm _ _ => true
  | .addImm _ _ => true
  | .ldReg _ _ => true
  | .orReg _ _ => true
  | .andReg _ _ => true
  | .xorReg _ _ => true
  | .addReg _ _ => true
  | .subReg _ _ => true
  | .shr _ _ => true
  | .subnReg _ _ => true
  | .shl _ _ => true
  | .sneReg _ _ _ => false
  | .ldI _ => true
  | .jpV0 _ => false
  | .rnd _ _ => true
  | .drw _ _ _ => true
  | .skp _ => false
  | .sknp _ => false
  | .ldVxDT _ => true
  | .ldVxK _ => false
  | .ldDTVx _ => true
  | .ldSTVx _ => true
  | .addI _ => true
  | .ldF _ => true
  | .ldB _ => true
  | .stRegs _ => true
  | .ldRegs _ => true
  | .unassigned _ => true

/-- The state after `k` steps, stopping at the first stop. -/
def runSteps : Nat → State → Outcome
  | 0, s => .next s
  | k + 1, s =>
    match step s with
    | .next t => runSteps k t
    | .fault f => .fault f
    | .refused r => .refused r

/-- `k` steps in a row, each executing an instruction that goes on, none at the program's end. -/
def SequentialRun : Nat → State → State → Prop
  | 0, s, t => t = s
  | k + 1, s, t => s.ended = false ∧ goesOn s.fetchInstr = true ∧ ∃ u, step s = .next u ∧ SequentialRun k u t

/-! ### Display -/

/-- Some set bit of the sprite falls on the pixel: row `r` of `n` read at `(I + r) mod 4096`, bit 7 leftmost, each
pixel's coordinates reduced on their own (42_display.md R162 to R164, R168). -/
def SpriteCovers (s : State) (x y : Reg) (n : Nibble) (px : Fin 64) (py : Fin 32) : Prop :=
  ∃ r < n.toNat, ∃ c < 8, (s.readByte (s.I.toNat + r)).getLsbD (7 - c) = true ∧
    px.val = ((s.readV x).toNat + c) % 64 ∧ py.val = ((s.readV y).toNat + r) % 32

end Sys2Proof.Machine
end

