-- ==== Sys2Proof/Certificates/Slice0/Obligations.lean ====
section
/-! DEFINITION. The statements for the provers. Each says which rule of spec/ it formalises, or, where a clause rests on
a decision of the spec or a choice of the model, which log entry names it. `among [...]`, `pcOrBytesAtI`,
`pcOrFirstRegs` and `pcOrDisplay` name the parts an instruction may change; `ChangesOnly` says every other part (every
register, byte of memory, pixel, key and field) is as before. -/

open Sys2Proof Sys2Proof.Machine

/-! ### Encoding -/

/-- Eleven words written out bit by bit from the encodings of 30_encoding.md R73: two of family 0, one of each of 1, 2,
3, 5, 8, D, E and F, and an unassigned one. Family 2 for CALL, the byte 9E and the nibbles 5 and 8 of family 8 are the
spec's general knowledge (G1, G3, log 26), as is which skip families 3 and 5 name (G2, log 27); that 5127 is SE is the
spec's decision D21 (log 22). -/
def Obligations.WrittenWordsDecode : Prop :=
  decodeWord 0b0000000011100000 = .cls ∧ decodeWord 0b0000000011101110 = .ret ∧
  decodeWord 0b0001001001001000 = .jp 0x248 ∧ decodeWord 0b0010001100000000 = .call 0x300 ∧
  decodeWord 0b0011001100010000 = .seImm 3 0x10 ∧ decodeWord 0b0101000100100111 = .seReg 1 2 0x7 ∧
  decodeWord 0b1000000000010101 = .subReg 0 1 ∧ decodeWord 0b1101000100100101 = .drw 1 2 0x5 ∧
  decodeWord 0b1110001010011110 = .skp 2 ∧ decodeWord 0b1111001101010101 = .stRegs 3 ∧
  decodeWord 0b1000000000001000 = .unassigned 0x8008

/-- Decoding the encoding of a well-formed instruction gives it back with every operand, and leaves the bytes after it
(30_encoding.md R70, R73; the kept ignored bits are the model's, log 22). -/
def Obligations.DecodeInvertsEncode : Prop :=
  ∀ (i : Instr) (rest : List Byte), i.wf = true →
    decodeWord (encodeWord i) = i ∧ decode (encode i ++ rest) = .ok (i, rest)

/-- Every word decodes to a well-formed instruction whose encoding is that word: no bit of a word is dropped. That the
bits the core ignores come back is the model's own choice, since it keeps them as operands (log 22). -/
def Obligations.EncodeInvertsDecode : Prop :=
  ∀ w : Word, (decodeWord w).wf = true ∧ encodeWord (decodeWord w) = w

/-- The decoder picks the row of spec/opcode_table.json that R81 picks: it matches, and every other row that matches
has fewer 1 bits in its mask. -/
def Obligations.DecodePicksMostSpecificRow : Prop :=
  ∀ w : Word, rowOf (decodeWord w) ∈ opcodeRows ∧ rowMatches w (rowOf (decodeWord w)) = true ∧
    ∀ row ∈ opcodeRows, rowMatches w row = true → row ≠ rowOf (decodeWord w) →
      maskBits row.1 < maskBits (rowOf (decodeWord w)).1

/-- 30_encoding.md R75: of the words 0x0000 to 0x0FFF, 0x00E0 is CLS, 0x00EE is RET and every other is SYS, a no-op. -/
def Obligations.FamilyZeroRecognisesTwoWords : Prop :=
  decodeWord 0x00E0 = .cls ∧ decodeWord 0x00EE = .ret ∧
  ∀ w : Word, w.toNat ≤ 0x0FFF → w ≠ 0x00E0 → w ≠ 0x00EE →
    (∃ nnn : Addr12, nnn.toNat = w.toNat ∧ decodeWord w = .sys nnn) ∧
    ∀ s : State, ∃ t, exec (decodeWord w) s = .next t ∧ t.pc = s.pc + 2 ∧ ChangesOnly (among [.pc]) s t

/-- 40_fetch_control.md R117 with the words of 30_encoding.md R80: exactly the words 8XYf (f in 8..D, F), EXff (ff not
9E, A1) and FXff (ff none of the nine) are unassigned, and each is a no-op that advances `pc` by 2. Some of the
assigned values are the spec's general knowledge (G1, G3, log 26), and that no word of families 5 and 9 is unassigned is
its decision D21 (log 22). -/
def Obligations.UnassignedWordsAdvance : Prop :=
  ∀ w : Word,
    ((∃ w', decodeWord w = .unassigned w') ↔
      (w.toNat / 4096 = 0x8 ∧ w.toNat % 16 ∈ [0x8, 0x9, 0xA, 0xB, 0xC, 0xD, 0xF]) ∨
      (w.toNat / 4096 = 0xE ∧ w.toNat % 256 ∉ [0x9E, 0xA1]) ∨
      (w.toNat / 4096 = 0xF ∧ w.toNat % 256 ∉ [0x07, 0x0A, 0x15, 0x18, 0x1E, 0x29, 0x33, 0x55, 0x65])) ∧
    ∀ s : State, ∃ t, exec (.unassigned w) s = .next t ∧ t.pc = s.pc + 2 ∧ ChangesOnly (among [.pc]) s t

/-! ### Fetch and step -/

/-- A read and a write reach the byte at the low 12 bits of their address, and so does every access of an instruction: a
fetch sees `pc`, and DXYN, FX33, FX55 and FX65 see `I`, only mod 4096 (20_memory.md R52). The last clause also says that
the four keep `I` (44_memory_transfer.md R206), which for FX55 and FX65 is the spec's decision D11 (log 12). -/
def Obligations.AddressesUseLowTwelveBits : Prop :=
  (∀ (m : List Host.Cell) (a a' : Nat) (b : Byte),
    Memory.read m a = Memory.read m (a % 4096) ∧ Memory.write m a b = Memory.write m (a % 4096) b ∧
    Memory.read (Memory.write m a b) (a + 4096 * a') = b) ∧
  ∀ (s : State) (w : Word), (s.setPc (s.pc + 4096 * w)).fetchWord = s.fetchWord ∧
    ∀ (x y : Reg) (n : Nibble), ∀ i ∈ [Instr.drw x y n, .ldB x, .stRegs x, .ldRegs x],
      ∃ t, exec i s = .next t ∧ exec i (s.setI (s.I + 4096 * w)) = .next (t.setI (s.I + 4096 * w))

/-- The fetched word: the byte at `pc` high, the byte at `pc + 1` low (20_memory.md R53), each address reduced on its
own, so at 0xFFF the low byte comes from 0x000 (the spec's decision D3, log 6). -/
def Obligations.FetchIsBigEndianByteByByte : Prop :=
  ∀ s : State, s.fetchWord.toNat =
    256 * (s.readByte (s.pc.toNat % 4096)).toNat + (s.readByte ((s.pc.toNat + 1) % 4096)).toNat

/-- Where the bytes at `pc` decode to a well-formed instruction and the program has not ended, a step is the execution
of that instruction (40_fetch_control.md R100). The step adds nothing: each instruction advances `pc` itself. At 0xFFF
the second byte is the one of the spec's decision D3 (log 6), and the end test is its D17 (log 18). -/
def Obligations.StepRunsDecodedInstruction : Prop :=
  ∀ (s : State) (i : Instr), s.pc.toNat < 0x200 + s.PROG_LEN → i.wf = true →
    decode [s.readByte s.pc.toNat, s.readByte (s.pc.toNat + 1)] = .ok (i, []) → step s = exec i s

/-- At or past PROG_END a step writes nothing and the host sees ProgramEnded (40_fetch_control.md R101, the spec's
decision D17, log 18). -/
def Obligations.StepAtProgramEndWritesNothing : Prop :=
  ∀ (s : State) (rnd : Byte), 0x200 + s.PROG_LEN ≤ s.pc.toNat →
    step s = .next s ∧ stepWith rnd s = .next (.stepped .programEnded, s)

/-- 60_exceptions.md R260: no instruction and no step traps, faults or aborts, in any state. -/
def Obligations.NoInstructionTraps : Prop :=
  (∀ (i : Instr) (s : State), ∃ t, exec i s = .next t) ∧ (∀ s : State, ∃ t, step s = .next t)

/-- What `step(rnd)` tells the host, in the order of 60_exceptions.md R263: ended before the fetch; a key wait with no
key down; a failed CALL or RET; else by the `pc` the instruction left. Rests on the spec's decisions D17 for the test
before the fetch (log 18), D12 for a key wait that a held key ends (log 13), and D4 and D25 for the failed CALL and RET
(log 3, log 8). -/
def Obligations.StepResultFollowsPriority : Prop :=
  ∀ (rnd : Byte) (s : State),
    (0x200 + s.PROG_LEN ≤ s.pc.toNat → stepWith rnd s = .next (.stepped .programEnded, s)) ∧
    (s.pc.toNat < 0x200 + s.PROG_LEN →
      (∀ x, s.fetchInstr = .ldVxK x → (∀ k : Fin 16, s.KEY[k.val] = false) →
        stepWith rnd s = .next (.stepped .awaitingKey, s)) ∧
      (∀ nnn, s.fetchInstr = .call nnn → stackDepth ≤ s.stack.length →
        stepWith rnd s = .next (.stepped .continued, s)) ∧
      (s.fetchInstr = .ret → s.stack = [] → stepWith rnd s = .next (.stepped .continued, s)) ∧
      ((∀ x, s.fetchInstr = .ldVxK x → ∃ k : Fin 16, s.KEY[k.val] = true) →
        ∃ t, stepWith rnd s =
          .next (.stepped (if 0x200 + t.PROG_LEN ≤ t.pc.toNat then .programEnded else .continued), t)))

/-- The model's `step` is the host's `step(rnd)` at the free byte of this draw, but for the model's own count of free
bytes taken, which only RND advances (log 1). -/
def Obligations.PlainStepIsHostStep : Prop :=
  ∀ s : State, ∃ r t n, stepWith (Config.hostRnd s.rndCount) s = .next (.stepped r, t) ∧
    step s = .next { t with rndCount := n } ∧
    (n = s.rndCount ∨ (n = s.rndCount + 1 ∧ ∃ x nn, s.fetchInstr = .rnd x nn))

/-- Only CXNN reads `rnd` (46_host_interface.md R244, the spec's decision D8, log 1): two values of `rnd` give the same
result and the same next state, but for the destination of a RND. -/
def Obligations.OnlyRndReadsTheRandomByte : Prop :=
  ∀ (rnd rnd' : Byte) (s t : State) (r : HostResult), stepWith rnd s = .next (r, t) →
    ∃ t', stepWith rnd' s = .next (r, t') ∧
      ((∀ x nn, s.fetchInstr ≠ .rnd x nn) → t' = t) ∧
      (∀ x nn, s.fetchInstr = .rnd x nn → ChangesOnly (among [.v x]) t t')

/-- From 0x200 on, `k` instructions in a row that each go on to the next word move `pc` by exactly 2k, and the program
has ended after them exactly when 0x200 + PROG_LEN <= pc + 2k; so a program of length L run from 0x200 has ended after
(L + 1) / 2 such steps and not before (40_fetch_control.md R101, 95_test_vectors.md W8; the end test is the spec's
decision D17, log 18). -/
def Obligations.SequentialRunReachesProgramEnd : Prop :=
  ∀ (k : Nat) (s t : State), s.PROG_LEN ≤ 0xE00 → SequentialRun k s t →
    t.pc.toNat = s.pc.toNat + 2 * k ∧ t.PROG_LEN = s.PROG_LEN ∧
    (s.pc.toNat = 0x200 → (t.ended = true ↔ (s.PROG_LEN + 1) / 2 ≤ k))

/-- While a program runs, neither the advance nor a skip wraps `pc`, and a `pc` of 0x1000 or more executes nothing
(40_fetch_control.md R102). The 16-bit `pc` is the spec's C1 and D29 (log 25), and that the end is tested before the
fetch its decision D17 (log 18). -/
def Obligations.PcNeverWrapsWhileRunning : Prop :=
  ∀ s : State, s.PROG_LEN ≤ 0xE00 →
    (s.ended = false → (s.pc + 2).toNat = s.pc.toNat + 2 ∧ (s.pc + 4).toNat = s.pc.toNat + 4) ∧
    (0x1000 ≤ s.pc.toNat → step s = .next s)

/-- A byte stored by one step is what the next step fetches (20_memory.md R65): FX55 with X at least 1 onto both bytes of
the next word. Rests on the spec's decisions D30, one memory for instructions and data (log 35), and at 0xFFF D3
(log 6). -/
def Obligations.StoredInstructionIsFetchedNext : Prop :=
  ∀ (x : Reg) (s : State), 1 ≤ x.val → s.I.toNat % 4096 = (s.pc.toNat + 2) % 4096 →
    ∃ t, exec (.stRegs x) s = .next t ∧ t.fetchWord = wordOfBytes (s.readV 0) (s.readV 1)

/-! ### Whole-machine rules -/

/-- What construction leaves (10_state.md R38). The font's place and bytes and the values of `stack`, `KEY`, `DIRTY`,
`PROG_LEN` and `LOADED` are the spec's decisions D6, D7, D18, D19, D20 (log 4, 5, 19, 20, 21). -/
def Obligations.ResetLeavesConstructionValues : Prop :=
  (∀ k, State.reset.readV k = 0) ∧ State.reset.I = 0 ∧ State.reset.pc = 0x0200 ∧ State.reset.stack = [] ∧
  State.reset.DT = 0 ∧ State.reset.ST = 0 ∧ (∀ x y, pixelOf State.reset.FB x y = false) ∧
  (∀ k : Fin 16, State.reset.KEY[k.val] = false) ∧ State.reset.DIRTY = false ∧ State.reset.PROG_LEN = 0 ∧
  State.reset.LOADED = false ∧
  ∀ a < 4096, State.reset.readByte a =
    if fontBase ≤ a ∧ a < fontBase + 80 then fontData.getD (a - fontBase) 0 else 0

/-- The invariant holds at reset (10_state.md R38): nothing is listed in memory, the stack is empty (the spec's decision
D20, log 21), and no program is loaded and PROG_LEN is 0 (D18 and D19, log 19 and log 20). -/
def Obligations.ResetMeetsInvariant : Prop := State.reset.Inv

/-- Every step keeps the invariant: memory stays canonical, the call stack within its depth (10_state.md R28), the
program within memory (R35), and no length before a load. The depth 16 and the length 0 are the spec's decisions D4
and D18 (log 3, log 19). -/
def Obligations.StepKeepsInvariant : Prop :=
  ∀ s t : State, s.Inv → step s = .next t → t.Inv

/-- From a state that meets the invariant, every list of host operations, whatever the images, key codes, random bytes
and interleaving (46_host_interface.md R251), runs without a stop and keeps the invariant. What a load, a key code and
CALL at their limits do rests on the spec's decisions D19, D26 and D4 (log 20, log 24, log 3). -/
def Obligations.EveryHostRunIsSafe : Prop :=
  ∀ (ops : List HostOp) (s : State), s.Inv → SafeRun ops s

/-- The end is terminal (46_host_interface.md R250, the spec's decision D17, log 18): once a loaded program has ended,
whatever the host does, it stays ended and only the timers, the keys and DIRTY can change. That a second load changes
nothing is the spec's decision D19 (log 20). -/
def Obligations.ProgramEndIsTerminal : Prop :=
  ∀ (ops : List HostOp) (s t : State), s.LOADED = true → s.ended = true → runOps ops s = .next t →
    t.ended = true ∧ ChangesOnly (fun p => p ∈ [.dt, .st, .dirty] ∨ ∃ k, p = .key k) s t

/-- The host's liberties (46_host_interface.md R249): no operation but a step changes V, I, pc, stack or FB, and none
changes memory once a program is loaded (a second load fails by the spec's decision D19, log 20). -/
def Obligations.HostCannotTouchProgramState : Prop :=
  ∀ (op : HostOp) (s t : State) (r : HostResult), (∀ rnd, op ≠ .step rnd) → applyOp op s = .next (r, t) →
    (∀ k, t.readV k = s.readV k) ∧ t.I = s.I ∧ t.pc = s.pc ∧ t.stack = s.stack ∧
    (∀ x y, pixelOf t.FB x y = pixelOf s.FB x y) ∧
    (s.LOADED = true → ∀ a, t.readByte a = s.readByte a)

/-- The frame of every instruction: when it gives a next state, every register, byte, pixel, key and field outside
`mayWrite` is as before (10_state.md R22, R24, R27 to R35). That OR, AND and XOR keep VF, that 7XNN does, and that FX55
and FX65 keep I are the spec's decisions D10, D28 and D11 (log 10, log 11, log 12). -/
def Obligations.EveryInstructionKeepsItsFrame : Prop :=
  ∀ (i : Instr) (s t : State), exec i s = .next t → ChangesOnly (mayWrite s i) s t

/-- Who writes what, over all instructions: I by ANNN, FX1E, FX29 alone (10_state.md R27); the stack by 2NNN and 00EE
(R28); DT by FX15 and ST by FX18 (R29); memory by FX33 and FX55 (20_memory.md R51); FB and DIRTY by 00E0 and DXYN (R32,
R34); KEY, PROG_LEN and LOADED by no instruction (R33, R35). That FX55 and FX65 do not write I is the spec's decision
D11 (log 12). -/
def Obligations.OnlyTheseInstructionsWriteEachPart : Prop :=
  ∀ (i : Instr) (s t : State), exec i s = .next t →
    (t.I ≠ s.I → (∃ nnn, i = .ldI nnn) ∨ (∃ x, i = .addI x) ∨ ∃ x, i = .ldF x) ∧
    (t.stack ≠ s.stack → (∃ nnn, i = .call nnn) ∨ i = .ret) ∧
    (t.DT ≠ s.DT → ∃ x, i = .ldDTVx x) ∧
    (t.ST ≠ s.ST → ∃ x, i = .ldSTVx x) ∧
    (∀ a, t.readByte a ≠ s.readByte a → (∃ x, i = .ldB x) ∨ ∃ x, i = .stRegs x) ∧
    (t.FB ≠ s.FB → i = .cls ∨ ∃ x y n, i = .drw x y n) ∧
    (t.DIRTY ≠ s.DIRTY → i = .cls ∨ ∃ x y n, i = .drw x y n) ∧
    t.KEY = s.KEY ∧ t.PROG_LEN = s.PROG_LEN ∧ t.LOADED = s.LOADED

/-! ### Control transfer -/

/-- 40_fetch_control.md R107: JP sets `pc` to exactly NNN and changes nothing else; a target at or past PROG_END ends
the run, and a jump to itself loops with Continued. -/
def Obligations.JumpSetsPcToAddress : Prop :=
  ∀ (nnn : Addr12) (s : State), ∃ t, exec (.jp nnn) s = .next t ∧ t.pc.toNat = nnn.toNat ∧
    ChangesOnly (among [.pc]) s t ∧ (0x200 + s.PROG_LEN ≤ nnn.toNat → t.ended = true) ∧
    (s.ended = false → s.fetchInstr = .jp nnn → s.pc.toNat = nnn.toNat →
      ∀ rnd, stepWith rnd s = .next (.stepped .continued, s))

/-- 40_fetch_control.md R108: JP V0 goes to NNN + V[0], not masked to 12 bits; past every program end when 0x1000 or
more, so that the run ends. -/
def Obligations.JumpV0AddsWithoutMask : Prop :=
  ∀ (nnn : Addr12) (s : State), ∃ t, exec (.jpV0 nnn) s = .next t ∧
    t.pc.toNat = nnn.toNat + (s.readV 0).toNat ∧ ChangesOnly (among [.pc]) s t ∧
    (s.PROG_LEN ≤ 0xE00 → 0x1000 ≤ nnn.toNat + (s.readV 0).toNat → t.ended = true)

/-- CALL with room on the stack (40_fetch_control.md R103; the pushed `pc + 2` and the depth are the spec's decisions
D5 and D4, log 7 and log 3). -/
def Obligations.CallPushesNextAddress : Prop :=
  ∀ (nnn : Addr12) (s : State), s.stack.length < stackDepth →
    ∃ t, exec (.call nnn) s = .next t ∧ t.pc.toNat = nnn.toNat ∧ t.stack = (s.pc + 2) :: s.stack ∧
      ChangesOnly (among [.pc, .stack]) s t

/-- CALL on a full stack writes nothing, and every later step does the same: the hang of 40_fetch_control.md R104 (the
spec's decisions D4 and D25, log 3 and log 8). -/
def Obligations.CallOnFullStackHangs : Prop :=
  ∀ (nnn : Addr12) (s : State), stackDepth ≤ s.stack.length →
    exec (.call nnn) s = .next s ∧
    (s.fetchInstr = .call nnn → ∀ n : Nat, runSteps n s = .next s)

/-- RET pops the newest entry into `pc` as it stands (the run ends if that is at or past PROG_END), and writes nothing on
an empty stack (40_fetch_control.md R106; that nothing is added to the popped value is the spec's decision D5, log 7,
and the empty stack its D25, log 8). -/
def Obligations.ReturnPopsNewestEntry : Prop :=
  (∀ (a : Word) (rest : List Word) (s : State), s.stack = a :: rest →
    ∃ t, exec .ret s = .next t ∧ t.pc = a ∧ t.stack = rest ∧ ChangesOnly (among [.pc, .stack]) s t ∧
      (0x200 + s.PROG_LEN ≤ a.toNat → t.ended = true)) ∧
  ∀ s : State, s.stack = [] → exec .ret s = .next s

/-- RET on an empty stack hangs: every later step does the same (40_fetch_control.md R105, the spec's decision D25,
log 8). -/
def Obligations.ReturnOnEmptyStackHangs : Prop :=
  ∀ s : State, s.stack = [] → s.fetchInstr = .ret → ∀ n : Nat, runSteps n s = .next s

/-- With room on the stack, CALL then RET comes back to the instruction after the call with the stack as it was
(95_test_vectors.md W6), whatever the subroutine did to the other parts. The depth 16 is the spec's decision D4 (log 3),
and that CALL pushes `pc + 2` and RET takes it as it stands its D5 (log 7). -/
def Obligations.CallThenReturnRestores : Prop :=
  ∀ (nnn : Addr12) (s t u : State), s.stack.length < stackDepth → exec (.call nnn) s = .next t →
    u.stack = t.stack → ∃ v, exec .ret u = .next v ∧ v.pc = s.pc + 2 ∧ v.stack = s.stack

/-- The skips against an immediate: 3XNN on equal, 4XNN on not equal, by 4 or 2 (40_fetch_control.md R109, R110; the
conditions are general knowledge, G2, log 27). -/
def Obligations.ImmediateSkipsCompare : Prop :=
  ∀ (x : Reg) (nn : Byte) (s : State),
    (∃ t, exec (.seImm x nn) s = .next t ∧ ChangesOnly (among [.pc]) s t ∧
      t.pc = s.pc + if (s.readV x).toNat = nn.toNat then 4 else 2) ∧
    (∃ t, exec (.sneImm x nn) s = .next t ∧ ChangesOnly (among [.pc]) s t ∧
      t.pc = s.pc + if (s.readV x).toNat = nn.toNat then 2 else 4)

/-- The skips between registers, for every value of the ignored nibble: 5XYn on equal, 9XYn on not equal
(40_fetch_control.md R111, R112; D21 and G2, log 22 and log 27). -/
def Obligations.RegisterSkipsCompare : Prop :=
  ∀ (x y : Reg) (n : Nibble) (s : State),
    (∃ t, exec (.seReg x y n) s = .next t ∧ ChangesOnly (among [.pc]) s t ∧
      t.pc = s.pc + if (s.readV x).toNat = (s.readV y).toNat then 4 else 2) ∧
    (∃ t, exec (.sneReg x y n) s = .next t ∧ ChangesOnly (among [.pc]) s t ∧
      t.pc = s.pc + if (s.readV x).toNat = (s.readV y).toNat then 2 else 4)

/-- 40_fetch_control.md R113: SYS advances by 2 and changes nothing else, whatever NNN. -/
def Obligations.SysOnlyAdvances : Prop :=
  ∀ (nnn : Addr12) (s : State), ∃ t, exec (.sys nnn) s = .next t ∧ t.pc = s.pc + 2 ∧ ChangesOnly (among [.pc]) s t

/-! ### Register ALU -/

/-- 6XNN and 7XNN: the immediate, and the sum mod 256 with no flag (41_register_alu.md R132, R133; G4 and D28, log 27
and log 11). -/
def Obligations.ImmediateLoadAndAdd : Prop :=
  ∀ (x : Reg) (nn : Byte) (s : State),
    (∃ t, exec (.ldImm x nn) s = .next t ∧ t.readV x = nn ∧ t.pc = s.pc + 2 ∧
      ChangesOnly (among [.v x, .pc]) s t) ∧
    (∃ t, exec (.addImm x nn) s = .next t ∧ (t.readV x).toNat = ((s.readV x).toNat + nn.toNat) % 256 ∧
      t.pc = s.pc + 2 ∧ ChangesOnly (among [.v x, .pc]) s t)

/-- 41_register_alu.md R134: LD Vx, Vy copies V[Y]; with X = Y nothing but `pc` changes. -/
def Obligations.RegisterCopy : Prop :=
  ∀ (x y : Reg) (s : State), ∃ t, exec (.ldReg x y) s = .next t ∧ t.readV x = s.readV y ∧ t.pc = s.pc + 2 ∧
    ChangesOnly (among [.v x, .pc]) s t ∧ (x = y → ChangesOnly (among [.pc]) s t)

/-- OR, AND and XOR bit by bit, VF written only as destination (41_register_alu.md R135 to R137; the spec's decision
D10, log 10). -/
def Obligations.LogicOperationsAreBitwise : Prop :=
  ∀ (x y : Reg) (s : State),
    (∃ t, exec (.orReg x y) s = .next t ∧ t.pc = s.pc + 2 ∧ ChangesOnly (among [.v x, .pc]) s t ∧
      ∀ b < 8, (t.readV x).getLsbD b = ((s.readV x).getLsbD b || (s.readV y).getLsbD b)) ∧
    (∃ t, exec (.andReg x y) s = .next t ∧ t.pc = s.pc + 2 ∧ ChangesOnly (among [.v x, .pc]) s t ∧
      ∀ b < 8, (t.readV x).getLsbD b = ((s.readV x).getLsbD b && (s.readV y).getLsbD b)) ∧
    (∃ t, exec (.xorReg x y) s = .next t ∧ t.pc = s.pc + 2 ∧ ChangesOnly (among [.v x, .pc]) s t ∧
      ∀ b < 8, (t.readV x).getLsbD b = ((s.readV x).getLsbD b ^^ (s.readV y).getLsbD b))

/-- ADD Vx, Vy: the sum mod 256 and the carry, written every time; with X = F the carry wins (41_register_alu.md R138;
the order is the spec's decision D9, log 9). -/
def Obligations.AddWritesSumAndCarry : Prop :=
  ∀ (x y : Reg) (s : State), ∃ t, exec (.addReg x y) s = .next t ∧
    (x ≠ vF → (t.readV x).toNat = ((s.readV x).toNat + (s.readV y).toNat) % 256) ∧
    (t.readV vF).toNat = (if (s.readV x).toNat + (s.readV y).toNat > 255 then 1 else 0) ∧
    t.pc = s.pc + 2 ∧ ChangesOnly (among [.v x, .v vF, .pc]) s t

/-- SUB and SUBN: the difference mod 256 and NOT borrow, written every time; with X = F the flag wins
(41_register_alu.md R139, R141; the order is the spec's decision D9, log 9). -/
def Obligations.SubtractWritesDifferenceAndNoBorrow : Prop :=
  ∀ (x y : Reg) (s : State),
    (∃ t, exec (.subReg x y) s = .next t ∧
      (x ≠ vF → (t.readV x).toNat = ((s.readV x).toNat + 256 - (s.readV y).toNat) % 256) ∧
      (t.readV vF).toNat = (if (s.readV x).toNat < (s.readV y).toNat then 0 else 1) ∧
      t.pc = s.pc + 2 ∧ ChangesOnly (among [.v x, .v vF, .pc]) s t) ∧
    (∃ t, exec (.subnReg x y) s = .next t ∧
      (x ≠ vF → (t.readV x).toNat = ((s.readV y).toNat + 256 - (s.readV x).toNat) % 256) ∧
      (t.readV vF).toNat = (if (s.readV y).toNat < (s.readV x).toNat then 0 else 1) ∧
      t.pc = s.pc + 2 ∧ ChangesOnly (among [.v x, .v vF, .pc]) s t)

/-- SHR and SHL of V[X] by one, whatever Y, with the bit moved out in VF, written every time; with X = F the flag wins
(41_register_alu.md R140, R142; the order is the spec's decision D9, log 9). -/
def Obligations.ShiftsMoveOneBitOut : Prop :=
  ∀ (x y : Reg) (s : State),
    (∃ t, exec (.shr x y) s = .next t ∧ (x ≠ vF → (t.readV x).toNat = (s.readV x).toNat / 2) ∧
      (t.readV vF).toNat = (s.readV x).toNat % 2 ∧
      t.pc = s.pc + 2 ∧ ChangesOnly (among [.v x, .v vF, .pc]) s t) ∧
    (∃ t, exec (.shl x y) s = .next t ∧ (x ≠ vF → (t.readV x).toNat = (s.readV x).toNat * 2 % 256) ∧
      (t.readV vF).toNat = (s.readV x).toNat / 128 ∧
      t.pc = s.pc + 2 ∧ ChangesOnly (among [.v x, .v vF, .pc]) s t)

/-- RND: `V[X] <- rnd & NN` for whatever byte the host supplies, as an instruction of the model with the free byte of
this draw and as `step(rnd)` with the host's (41_register_alu.md R143; D8, G4, log 1 and log 27). -/
def Obligations.RandomByteIsMasked : Prop :=
  ∀ (x : Reg) (nn : Byte) (s : State),
    (∃ t, exec (.rnd x nn) s = .next t ∧ t.pc = s.pc + 2 ∧ t.rndCount = s.rndCount + 1 ∧
      ChangesOnly (among [.v x, .pc, .rndCount]) s t ∧
      ∀ b < 8, (t.readV x).getLsbD b = ((Config.hostRnd s.rndCount).getLsbD b && nn.getLsbD b)) ∧
    ∀ rnd : Byte, s.pc.toNat < 0x200 + s.PROG_LEN → s.fetchInstr = .rnd x nn →
      ∃ r t, stepWith rnd s = .next (.stepped r, t) ∧ t.pc = s.pc + 2 ∧ ChangesOnly (among [.v x, .pc]) s t ∧
        ∀ b < 8, (t.readV x).getLsbD b = (rnd.getLsbD b && nn.getLsbD b)

/-! ### Display -/

/-- CLS unsets every pixel, sets DIRTY even on a clear screen, and leaves VF alone (42_display.md R161; D16, log 17). -/
def Obligations.ClearUnsetsEveryPixel : Prop :=
  ∀ s : State, ∃ t, exec .cls s = .next t ∧ (∀ x y, pixelOf t.FB x y = false) ∧ t.DIRTY = true ∧
    t.pc = s.pc + 2 ∧ ChangesOnly (pcOrDisplay false) s t

/-- DRW as a whole: every pixel a set sprite bit covers is flipped and no other; VF is 1 exactly if a covered pixel was
set before the draw, else 0; DIRTY is set, N = 0 included (42_display.md R162 to R168). Bit order, wrap and DIRTY rest
on the spec's decisions D15, D14, D16 (log 16, 15, 17). -/
def Obligations.DrawFlipsCoveredPixels : Prop :=
  ∀ (x y : Reg) (n : Nibble) (s : State), ∃ t, exec (.drw x y n) s = .next t ∧
    (∀ px py, (SpriteCovers s x y n px py → pixelOf t.FB px py = !pixelOf s.FB px py) ∧
      (¬ SpriteCovers s x y n px py → pixelOf t.FB px py = pixelOf s.FB px py)) ∧
    ((∃ px py, SpriteCovers s x y n px py ∧ pixelOf s.FB px py = true) → t.readV vF = 1) ∧
    ((∀ px py, SpriteCovers s x y n px py → pixelOf s.FB px py = false) → t.readV vF = 0) ∧
    t.DIRTY = true ∧ t.pc = s.pc + 2 ∧ ChangesOnly (pcOrDisplay true) s t

/-- Drawing the same sprite twice at the same location restores every pixel, and the second draw reports a collision
exactly if the first set some pixel (95_test_vectors.md W5, 42_display.md R162, R165). The two draws may name their
coordinates by different registers. Which pixels are covered rests on the spec's decisions D14 and D15 (log 15,
log 16). -/
def Obligations.DrawingTwiceCancels : Prop :=
  ∀ (x y x' y' : Reg) (n : Nibble) (s t : State), exec (.drw x y n) s = .next t →
    t.readV x' = s.readV x → t.readV y' = s.readV y →
    ∃ u, exec (.drw x' y' n) t = .next u ∧ (∀ px py, pixelOf u.FB px py = pixelOf s.FB px py) ∧
      (u.readV vF = 1 ↔ ∃ px py, SpriteCovers s x y n px py ∧ pixelOf s.FB px py = false)

/-! ### Keypad -/

/-- FX0A with no key down writes nothing, `pc` included, and running on stays there (43_keypad.md R182, R188). -/
def Obligations.KeyWaitWritesNothing : Prop :=
  ∀ (x : Reg) (s : State), (∀ k : Fin 16, s.KEY[k.val] = false) →
    exec (.ldVxK x) s = .next s ∧
    (s.fetchInstr = .ldVxK x → ∀ n : Nat, runSteps n s = .next s)

/-- FX0A with a key down stores the smallest code that is down and advances; the keys stay as they are (43_keypad.md
R182; the spec's decision D12, log 13). -/
def Obligations.KeyWaitTakesLowestKey : Prop :=
  ∀ (x : Reg) (k : Fin 16) (s : State), s.KEY[k.val] = true → (∀ j : Fin 16, j < k → s.KEY[j.val] = false) →
    ∃ t, exec (.ldVxK x) s = .next t ∧ (t.readV x).toNat = k.val ∧ t.pc = s.pc + 2 ∧
      ChangesOnly (among [.v x, .pc]) s t

/-- SKP and SKNP: key V[X] is down when V[X] <= 0xF and KEY[V[X]] is set; a greater value names no key (43_keypad.md
R181, R183, R184; D13, log 14; the low bytes are general knowledge, log 26). -/
def Obligations.KeySkipsTestOneKey : Prop :=
  ∀ (x : Reg) (s : State),
    ∃ t u, exec (.skp x) s = .next t ∧ ChangesOnly (among [.pc]) s t ∧
      exec (.sknp x) s = .next u ∧ ChangesOnly (among [.pc]) s u ∧
      (∀ k : Fin 16, (s.readV x).toNat = k.val →
        t.pc = s.pc + (if s.KEY[k.val] then 4 else 2) ∧ u.pc = s.pc + (if s.KEY[k.val] then 2 else 4)) ∧
      (0xF < (s.readV x).toNat → t.pc = s.pc + 2 ∧ u.pc = s.pc + 4)

/-! ### Address register and memory transfer -/

/-- ANNN: `I <- NNN` (44_memory_transfer.md R200; general knowledge, G4, log 27). -/
def Obligations.LoadAddressRegister : Prop :=
  ∀ (nnn : Addr12) (s : State), ∃ t, exec (.ldI nnn) s = .next t ∧ t.I.toNat = nnn.toNat ∧ t.pc = s.pc + 2 ∧
    ChangesOnly (among [.i, .pc]) s t

/-- 44_memory_transfer.md R201: FX1E adds V[X] to I mod 2^16, keeping the sum in full, with no flag. -/
def Obligations.AddToAddressRegister : Prop :=
  ∀ (x : Reg) (s : State), ∃ t, exec (.addI x) s = .next t ∧
    t.I.toNat = (s.I.toNat + (s.readV x).toNat) % 65536 ∧ t.pc = s.pc + 2 ∧ ChangesOnly (among [.i, .pc]) s t

/-- 44_memory_transfer.md R202: FX29 sets I to FONT_BASE + 5 * V[X] mod 2^16, V[X] in full. The statement keeps
FONT_BASE by name, whatever its value (log 4). -/
def Obligations.FontAddressFromRegister : Prop :=
  ∀ (x : Reg) (s : State), ∃ t, exec (.ldF x) s = .next t ∧
    t.I.toNat = (fontBase + 5 * (s.readV x).toNat) % 65536 ∧ t.pc = s.pc + 2 ∧ ChangesOnly (among [.i, .pc]) s t

/-- 44_memory_transfer.md R203: the hundreds, tens and ones of V[X] at I, I + 1, I + 2, addresses wrapping at 4096, I
unchanged, and no other byte written. -/
def Obligations.DecimalDigitsStored : Prop :=
  ∀ (x : Reg) (s : State), ∃ t, exec (.ldB x) s = .next t ∧
    (t.readByte (s.elementAddr 0)).toNat = (s.readV x).toNat / 100 ∧
    (t.readByte (s.elementAddr 1)).toNat = (s.readV x).toNat / 10 % 10 ∧
    (t.readByte (s.elementAddr 2)).toNat = (s.readV x).toNat % 10 ∧
    t.pc = s.pc + 2 ∧ ChangesOnly (pcOrBytesAtI s 3) s t

/-- FX55 stores V0 to VX inclusive at I and on, addresses wrapping at 4096, and no other byte (44_memory_transfer.md
R204); I is unchanged (R206, the spec's decision D11, log 12). -/
def Obligations.RegistersStored : Prop :=
  ∀ (x : Reg) (s : State), ∃ t, exec (.stRegs x) s = .next t ∧
    (∀ k : Reg, k ≤ x → t.readByte (s.elementAddr k.val) = s.readV k) ∧
    t.pc = s.pc + 2 ∧ ChangesOnly (pcOrBytesAtI s (x.val + 1)) s t

/-- FX65 loads V0 to VX inclusive from I and on, addresses wrapping at 4096, and no register above X
(44_memory_transfer.md R205); I is unchanged (R206, the spec's decision D11, log 12). -/
def Obligations.RegistersLoaded : Prop :=
  ∀ (x : Reg) (s : State), ∃ t, exec (.ldRegs x) s = .next t ∧
    (∀ k : Reg, k ≤ x → t.readV k = s.readByte (s.elementAddr k.val)) ∧
    t.pc = s.pc + 2 ∧ ChangesOnly (pcOrFirstRegs x) s t

/-- A store by FX55 and a later load by FX65 of no more registers, with memory and I as the store left them, give the
registers stored (44_memory_transfer.md R204, R205; D11, log 12). -/
def Obligations.StoreThenLoadRestoresRegisters : Prop :=
  ∀ (x x' : Reg) (s t u : State), exec (.stRegs x) s = .next t → x' ≤ x → u.MEM = t.MEM → u.I = t.I →
    ∃ v, exec (.ldRegs x') u = .next v ∧ ∀ k, v.readV k = if k ≤ x' then s.readV k else u.readV k

/-! ### Timers -/

/-- FX07, FX15 and FX18: `V[X] <- DT`, `DT <- V[X]`, `ST <- V[X]` (45_timers.md R222 to R224; general knowledge, G4,
log 26 and log 27). -/
def Obligations.TimerMoves : Prop :=
  ∀ (x : Reg) (s : State),
    (∃ t, exec (.ldVxDT x) s = .next t ∧ t.readV x = s.DT ∧ t.pc = s.pc + 2 ∧
      ChangesOnly (among [.v x, .pc]) s t) ∧
    (∃ t, exec (.ldDTVx x) s = .next t ∧ t.DT = s.readV x ∧ t.pc = s.pc + 2 ∧ ChangesOnly (among [.dt, .pc]) s t) ∧
    (∃ t, exec (.ldSTVx x) s = .next t ∧ t.ST = s.readV x ∧ t.pc = s.pc + 2 ∧ ChangesOnly (among [.st, .pc]) s t)

/-! ### Host operations -/

/-- 45_timers.md R221: `tick_timers` decrements each counter on its own, clamped at 0, and changes nothing else. -/
def Obligations.TickDecrementsBothTimers : Prop :=
  ∀ s : State, ∃ t, applyOp .tickTimers s = .next (.ok, t) ∧ t.DT.toNat = s.DT.toNat - 1 ∧
    t.ST.toNat = s.ST.toNat - 1 ∧ ChangesOnly (among [.dt, .st]) s t

/-- A code up to 0xF sets or clears that key alone; any greater code fails with InvalidKey and writes nothing
(43_keypad.md R185 to R187). That a code is a natural number of any size, and every one above 0xF is rejected, is the
spec's decision D26 (log 24). -/
def Obligations.KeyEventsWriteOneKey : Prop :=
  ∀ (code : Nat) (s : State),
    (∀ k : Fin 16, code = k.val →
      (∃ t, applyOp (.keyDown code) s = .next (.ok, t) ∧ t.KEY[k.val] = true ∧ ChangesOnly (among [.key k]) s t) ∧
      (∃ t, applyOp (.keyUp code) s = .next (.ok, t) ∧ t.KEY[k.val] = false ∧ ChangesOnly (among [.key k]) s t)) ∧
    (0xF < code → applyOp (.keyDown code) s = .next (.invalidKey, s) ∧
      applyOp (.keyUp code) s = .next (.invalidKey, s))

/-- `load_program`: an image of at most 0xE00 bytes, once, is copied to 0x200 and on and its size recorded, and nothing
else changes; a longer image or a second load is a LoadError that writes nothing (46_host_interface.md R241, R242; the
second load is the spec's decision D19, log 20). -/
def Obligations.LoadProgramCopiesImageOnce : Prop :=
  ∀ (bytes : List Byte) (s : State),
    (s.LOADED = false → bytes.length ≤ 0xE00 →
      ∃ t, applyOp (.loadProgram bytes) s = .next (.ok, t) ∧
        (∀ (j : Nat) (h : j < bytes.length), t.readByte (0x200 + j) = bytes[j]) ∧
        t.PROG_LEN = bytes.length ∧ t.LOADED = true ∧
        ChangesOnly (fun p => p ∈ [.progLen, .loaded] ∨
          ∃ a, p = .mem a ∧ 0x200 ≤ a % 4096 ∧ a % 4096 < 0x200 + bytes.length) s t) ∧
    (s.LOADED = true ∨ 0xE00 < bytes.length → applyOp (.loadProgram bytes) s = .next (.loadError, s))

/-- The reads return FB, DIRTY and ST and change nothing (46_host_interface.md R245, R247); `clear_dirty` clears DIRTY
and nothing else (R246, the spec's decision D31, log 33). -/
def Obligations.HostReadsAndClearDirty : Prop :=
  ∀ s : State, applyOp .framebuffer s = .next (.grid s.FB, s) ∧ applyOp .dirty s = .next (.bit s.DIRTY, s) ∧
    applyOp .soundTimer s = .next (.byte s.ST, s) ∧
    ∃ t, applyOp .clearDirty s = .next (.ok, t) ∧ t.DIRTY = false ∧ ChangesOnly (among [.dirty]) s t
end

