-- ==== Sys2Proof/Laws/Display.lean ====
section
/-! SUPPORT. The framebuffer's laws: clearing, flipping one pixel, and drawing one sprite bit. -/

namespace Sys2Proof.Machine

@[simp] theorem pixelOf_blankScreen (x : Fin 64) (y : Fin 32) : pixelOf blankScreen x y = false := by
  simp [pixelOf, blankScreen]

/-- Flipping a pixel changes that pixel alone. -/
theorem pixelOf_flipPixel (fb : Framebuffer) (x px : Fin 64) (y py : Fin 32) :
    pixelOf (flipPixel fb x y) px py = (pixelOf fb px py ^^ decide (x = px ∧ y = py)) := by
  by_cases hx : x = px
  · subst hx
    by_cases hy : y = py
    · subst hy
      simp [pixelOf, flipPixel]
    · have hne : y.val ≠ py.val := fun h => hy (Fin.ext h)
      simp [pixelOf, flipPixel, hy, hne]
  · have hne : x.val ≠ px.val := fun h => hx (Fin.ext h)
    simp [pixelOf, flipPixel, hx, hne]

/-- Two screens with the same pixels are one screen. -/
theorem framebuffer_ext (a b : Framebuffer) (h : ∀ x y, pixelOf a x y = pixelOf b x y) : a = b := by
  apply Vector.ext
  intro x hx
  apply Vector.ext
  intro y hy
  exact h ⟨x, hx⟩ ⟨y, hy⟩

@[simp] theorem pixelOf_drawBit (x y : Nat) (c : Canvas) (px : Fin 64) (py : Fin 32) :
    pixelOf (drawBit x y c).fb px py = (pixelOf c.fb px py ^^ decide (columnOf x = px ∧ rowOfCoord y = py)) :=
  pixelOf_flipPixel ..

@[simp] theorem hit_drawBit (x y : Nat) (c : Canvas) :
    (drawBit x y c).hit = (c.hit || pixelOf c.fb (columnOf x) (rowOfCoord y)) := rfl

end Sys2Proof.Machine
end

