-- ==== Sys2Proof/Laws/Encoding.lean ====
section
/-! SUPPORT. The fields of an encoded word: each field reads back what was put in its place, a word is rebuilt from its
fields, and the masks of the opcode table keep the fixed fields alone (30_encoding.md R71, R72, R81). -/

namespace Sys2Proof

open BitVec

variable (o n : Nibble) (x y : Reg) (nn : Byte) (nnn : Addr12) (w : Word)

/-! ### The three formats are one -/

theorem encXNN_eq_encNNN : encXNN o x nn = encNNN o (BitVec.ofFin (w := 4) x ++ nn) := rfl

theorem encXYN_eq_encXNN : encXYN o x y n = encXNN o x (BitVec.ofFin (w := 4) y ++ n) := rfl

/-! ### Reading fields back -/

@[simp] theorem fieldO_encNNN : fieldO (encNNN o nnn) = o := extractLsb'_append_eq_left (a := o) (b := nnn)

@[simp] theorem fieldNNN_encNNN : fieldNNN (encNNN o nnn) = nnn :=
  extractLsb'_append_eq_right (a := o) (b := nnn)

/-- A field within the low 12 bits is a field of the address part. -/
theorem extract_encNNN (s l : Nat) (h : s + l ≤ 12) : (encNNN o nnn).extractLsb' s l = nnn.extractLsb' s l :=
  extractLsb'_append_eq_of_add_le (xhi := o) (xlo := nnn) h

/-- A field within the low byte is a field of `NN`. -/
theorem extract_low_byte (s l : Nat) (h : s + l ≤ 8) : w.extractLsb' s l = (fieldNN w).extractLsb' s l := by
  ext i hi
  simp only [fieldNN, getElem_extractLsb', getLsbD_extractLsb']
  rw [decide_eq_true (by omega)]
  simp

@[simp] theorem fieldO_encXNN : fieldO (encXNN o x nn) = o := fieldO_encNNN ..

@[simp] theorem fieldX_encXNN : fieldX (encXNN o x nn) = x := by
  have h : (encXNN o x nn).extractLsb' 8 4 = BitVec.ofFin (w := 4) x :=
    (extract_encNNN o _ 8 4 (by decide)).trans (extractLsb'_append_eq_left (a := BitVec.ofFin (w := 4) x) (b := nn))
  rw [fieldX, h]

@[simp] theorem fieldNN_encXNN : fieldNN (encXNN o x nn) = nn :=
  (extract_encNNN o _ 0 8 (by decide)).trans (extractLsb'_append_eq_right (a := BitVec.ofFin (w := 4) x) (b := nn))

@[simp] theorem fieldO_encXYN : fieldO (encXYN o x y n) = o := fieldO_encNNN ..

@[simp] theorem fieldX_encXYN : fieldX (encXYN o x y n) = x := fieldX_encXNN ..

theorem fieldNN_encXYN : fieldNN (encXYN o x y n) = BitVec.ofFin (w := 4) y ++ n := fieldNN_encXNN ..

@[simp] theorem fieldY_encXYN : fieldY (encXYN o x y n) = y := by
  have h : (encXYN o x y n).extractLsb' 4 4 = BitVec.ofFin (w := 4) y := by
    rw [extract_low_byte _ _ _ (by decide), fieldNN_encXYN]
    exact extractLsb'_append_eq_left
  rw [fieldY, h]

@[simp] theorem fieldN_encXYN : fieldN (encXYN o x y n) = n := by
  rw [fieldN, extract_low_byte _ _ _ (by decide), fieldNN_encXYN]
  exact extractLsb'_append_eq_right

/-! ### A word from its fields -/

theorem encNNN_fields : encNNN (fieldO w) (fieldNNN w) = w :=
  extractLsb'_append_extractLsb' (w := 4) (len := 12) (x := w)

theorem encXNN_fields : encXNN (fieldO w) (fieldX w) (fieldNN w) = w :=
  (congrArg (encNNN (fieldO w)) (extractLsb'_append_extractLsb'_eq_extractLsb' (x := w) (start₁ := 0) (start₂ := 8)
    (len₁ := 8) (len₂ := 4) rfl)).trans (encNNN_fields w)

theorem encXYN_fields : encXYN (fieldO w) (fieldX w) (fieldY w) (fieldN w) = w :=
  (congrArg (encXNN (fieldO w) (fieldX w)) (extractLsb'_append_extractLsb'_eq_extractLsb' (x := w) (start₁ := 0)
    (start₂ := 4) (len₁ := 4) (len₂ := 4) rfl)).trans (encXNN_fields w)

/-! ### The masks of the table -/

theorem mask_encNNN : encNNN o nnn &&& 0xF000 = encNNN o 0 := by
  have h : encNNN o nnn &&& 0xF000 = encNNN (o &&& allOnes 4) (nnn &&& 0#12) :=
    and_append (x₁ := o) (y₁ := nnn) (x₂ := allOnes 4) (y₂ := 0#12)
  rw [h, and_allOnes, and_zero]
  rfl

theorem mask_encXNN : encXNN o x nn &&& 0xF0FF = encXNN o 0 nn := by
  have h : encXNN o x nn &&& 0xF0FF =
      encNNN (o &&& allOnes 4) ((BitVec.ofFin (w := 4) x ++ nn) &&& (0#4 ++ allOnes 8)) :=
    and_append (x₁ := o) (y₁ := BitVec.ofFin (w := 4) x ++ nn) (x₂ := allOnes 4) (y₂ := 0#4 ++ allOnes 8)
  rw [h, and_append, and_allOnes, and_allOnes, and_zero]
  rfl

theorem mask_encXYN : encXYN o x y n &&& 0xF00F = encXYN o 0 0 n := by
  have h : encXYN o x y n &&& 0xF00F = encNNN (o &&& allOnes 4) ((BitVec.ofFin (w := 4) x ++
      (BitVec.ofFin (w := 4) y ++ n)) &&& (0#4 ++ (0#4 ++ allOnes 4))) :=
    and_append (x₁ := o) (y₁ := BitVec.ofFin (w := 4) x ++ (BitVec.ofFin (w := 4) y ++ n)) (x₂ := allOnes 4)
      (y₂ := 0#4 ++ (0#4 ++ allOnes 4))
  rw [h, and_append, and_append, and_allOnes, and_allOnes, and_zero, and_zero]
  rfl

end Sys2Proof
end

