-- ==== Sys2Proof/Laws/Memory.lean ====
section
/-! SUPPORT. The laws of memory, under any parameters: what a read sees after a write, and that every write keeps the
canonical form; and the spec's defaults by name. -/

namespace Sys2Proof.Machine

@[simp] theorem Params.spec_stackDepth : Params.spec.stackDepth = Machine.stackDepth := rfl

@[simp] theorem Params.spec_fontBase : Params.spec.fontBase.val = Machine.fontBase := rfl

@[simp] theorem Params.spec_fontData : Params.spec.fontData.toList = Machine.fontData := rfl

namespace Memory

variable {p : Params}

theorem addr_lt (a : Nat) : addr a < 4096 := Nat.mod_lt _ (by decide)

@[simp] theorem addr_addr (a : Nat) : addr (addr a) = addr a := Nat.mod_mod _ _

/-- Dropping the entries of one address leaves every other read alone. -/
theorem get_filter_ne (m : List Host.Cell) (a a' : Nat) :
    get (m.filter (fun c => c.1 ≠ a)) a' p = if a' = a then resetByte a' p else get m a' p := by
  induction m with
  | nil => simp [get]
  | cons c m ih =>
    by_cases hc : c.1 = a
    · simp only [List.filter_cons, hc, ne_eq, not_true_eq_false, decide_false, Bool.false_eq_true, if_false, ih, get]
      split
      · rfl
      · next h => rw [if_neg (fun e => h e.symm)]
    · simp only [List.filter_cons, ne_eq, hc, not_false_eq_true, decide_true, if_true, get, ih]
      split
      · next h => rw [if_neg (fun e => hc (h.trans e))]
      · rfl

/-- After a cell is put in place, its address reads as the cell and every other as before, if the list had no entry
for that address. -/
theorem get_insert (m : List Host.Cell) (c : Host.Cell) (a' : Nat) (h : ∀ d ∈ m, d.1 ≠ c.1) :
    get (insert c m) a' p = if a' = c.1 then c.2 else get m a' p := by
  induction m with
  | nil => simp only [insert, get, eq_comm]
  | cons d m ih =>
    have hd : d.1 ≠ c.1 := h d (by simp)
    have ih := ih (fun e he => h e (by simp [he]))
    simp only [insert]
    split
    · simp only [get, eq_comm (a := c.1)]
    · simp only [get, ih]
      by_cases e : d.1 = a'
      · rw [if_pos e, if_pos e, if_neg (fun x => hd (e.trans x))]
      · rw [if_neg e, if_neg e]

/-- A read after a write: the byte written at its address, every other byte as before (20_memory.md R57). -/
theorem read_write (m : List Host.Cell) (a : Nat) (b : Byte) (a' : Nat) :
    read (write m a b p) a' p = if addr a' = addr a then b else read m a' p := by
  have hf : ∀ d ∈ m.filter (fun c => c.1 ≠ addr a), d.1 ≠ addr a := by simp
  simp only [read, write, put]
  split
  · next hb =>
    rw [get_filter_ne]
    split
    · next e => rw [hb, e]
    · rfl
  · rw [get_insert _ (addr a, b) _ hf, get_filter_ne]
    simp only
    split <;> rfl

/-- A byte outside the written range reads as before. -/
theorem read_writeBytes_outside (bs : List Byte) (m : List Host.Cell) (a a' : Nat)
    (h : ∀ k < bs.length, addr a' ≠ addr (a + k)) : read (writeBytes m a bs p) a' p = read m a' p := by
  induction bs generalizing m a with
  | nil => rfl
  | cons b bs ih =>
    rw [writeBytes, ih, read_write, if_neg (by simpa using h 0 (by simp))]
    intro k hk
    have := h (k + 1) (by simpa using hk)
    rwa [show a + 1 + k = a + (k + 1) by omega]

/-- The bytes of the written range read as the bytes written, if they do not run into each other. -/
theorem read_writeBytes_inside (bs : List Byte) (m : List Host.Cell) (a k : Nat)
    (hk : k < bs.length) (hl : bs.length ≤ 4096) : read (writeBytes m a bs p) (a + k) p = bs[k] := by
  induction bs generalizing m a k with
  | nil => simp at hk
  | cons b bs ih =>
    rw [writeBytes]
    cases k with
    | zero =>
      rw [read_writeBytes_outside, read_write]
      · simp
      · intro j hj
        simp only [addr, List.length_cons] at *
        omega
    | succ k =>
      have := ih (write m a b p) (a + 1) k (by simpa using hk) (by simp at hl; omega)
      rwa [show a + 1 + k = a + (k + 1) by omega] at this

/-! ### The canonical form -/

theorem wf_nil : wf [] p := ⟨List.Pairwise.nil, by simp⟩

theorem mem_insert (c : Host.Cell) (m : List Host.Cell) (d : Host.Cell) : d ∈ insert c m ↔ d = c ∨ d ∈ m := by
  induction m with
  | nil => simp [insert]
  | cons e m ih =>
    simp only [insert]
    split
    · simp
    · simp only [List.mem_cons, ih]; tauto

theorem pairwise_insert (c : Host.Cell) (m : List Host.Cell) (h : m.Pairwise (fun c d => c.1 < d.1))
    (hne : ∀ d ∈ m, d.1 ≠ c.1) : (insert c m).Pairwise (fun c d => c.1 < d.1) := by
  induction m with
  | nil => simp [insert]
  | cons e m ih =>
    rw [List.pairwise_cons] at h
    simp only [insert]
    split
    · next hlt =>
      refine List.pairwise_cons.2 ⟨?_, List.pairwise_cons.2 h⟩
      intro d hd
      rcases List.mem_cons.1 hd with rfl | hd
      · exact hlt
      · exact hlt.trans (h.1 d hd)
    · next hlt =>
      refine List.pairwise_cons.2 ⟨?_, ih h.2 (fun d hd => hne d (by simp [hd]))⟩
      intro d hd
      rcases (mem_insert c m d).1 hd with rfl | hd
      · have := hne e (by simp); omega
      · exact h.1 d hd

/-- A write keeps the canonical form. -/
theorem wf_write (m : List Host.Cell) (a : Nat) (b : Byte) (h : wf m p) : wf (write m a b p) p := by
  have hp : (m.filter (fun c => c.1 ≠ addr a)).Pairwise (fun c d => c.1 < d.1) := h.1.filter _
  have hm : ∀ c ∈ m.filter (fun c => c.1 ≠ addr a), c.1 < 4096 ∧ c.2 ≠ resetByte c.1 p :=
    fun c hc => h.2 c (List.mem_filter.1 hc).1
  simp only [write, put]
  split
  · exact ⟨hp, hm⟩
  · next hb =>
    refine ⟨pairwise_insert _ _ hp (by simp), fun c hc => ?_⟩
    rcases (mem_insert _ _ _).1 hc with rfl | hc
    · exact ⟨addr_lt a, hb⟩
    · exact hm c hc

theorem wf_writeBytes (bs : List Byte) (m : List Host.Cell) (a : Nat) (h : wf m p) :
    wf (writeBytes m a bs p) p := by
  induction bs generalizing m a with
  | nil => exact h
  | cons b bs ih => exact ih _ _ (wf_write m a b h)

end Memory

end Sys2Proof.Machine
end

