-- ==== Sys2Proof/Laws/State.lean ====
section
/-! SUPPORT. What each state update does to each field: one lemma per field per update, and what the reads of a
register and of a byte see after it. -/

namespace Sys2Proof.Machine.State

variable (s : State)

theorem setV_V (k : Reg) (b : Byte) : (s.setV k b).V = s.V.set k.val b := rfl
@[simp] theorem setV_I (k : Reg) (b : Byte) : (s.setV k b).I = s.I := rfl
@[simp] theorem setV_pc (k : Reg) (b : Byte) : (s.setV k b).pc = s.pc := rfl
@[simp] theorem setV_stack (k : Reg) (b : Byte) : (s.setV k b).stack = s.stack := rfl
@[simp] theorem setV_DT (k : Reg) (b : Byte) : (s.setV k b).DT = s.DT := rfl
@[simp] theorem setV_ST (k : Reg) (b : Byte) : (s.setV k b).ST = s.ST := rfl
@[simp] theorem setV_MEM (k : Reg) (b : Byte) : (s.setV k b).MEM = s.MEM := rfl
@[simp] theorem setV_FB (k : Reg) (b : Byte) : (s.setV k b).FB = s.FB := rfl
@[simp] theorem setV_KEY (k : Reg) (b : Byte) : (s.setV k b).KEY = s.KEY := rfl
@[simp] theorem setV_DIRTY (k : Reg) (b : Byte) : (s.setV k b).DIRTY = s.DIRTY := rfl
@[simp] theorem setV_PROG_LEN (k : Reg) (b : Byte) : (s.setV k b).PROG_LEN = s.PROG_LEN := rfl
@[simp] theorem setV_LOADED (k : Reg) (b : Byte) : (s.setV k b).LOADED = s.LOADED := rfl
@[simp] theorem setV_rndCount (k : Reg) (b : Byte) : (s.setV k b).rndCount = s.rndCount := rfl
@[simp] theorem readV_setV (k : Reg) (b : Byte) (j : Reg) :
    (s.setV k b).readV j = if j = k then b else s.readV j := by
  simp only [readV, setV, Vector.getElem_set, Fin.ext_iff]
  split <;> split <;> first | rfl | omega
@[simp] theorem readByte_setV (k : Reg) (b : Byte) (a : Nat) (p : Params) :
    (s.setV k b).readByte a p = s.readByte a p := rfl

@[simp] theorem setAllV_V (v : Vector Byte 16) : (s.setAllV v).V = v := rfl
@[simp] theorem setAllV_I (v : Vector Byte 16) : (s.setAllV v).I = s.I := rfl
@[simp] theorem setAllV_pc (v : Vector Byte 16) : (s.setAllV v).pc = s.pc := rfl
@[simp] theorem setAllV_stack (v : Vector Byte 16) : (s.setAllV v).stack = s.stack := rfl
@[simp] theorem setAllV_DT (v : Vector Byte 16) : (s.setAllV v).DT = s.DT := rfl
@[simp] theorem setAllV_ST (v : Vector Byte 16) : (s.setAllV v).ST = s.ST := rfl
@[simp] theorem setAllV_MEM (v : Vector Byte 16) : (s.setAllV v).MEM = s.MEM := rfl
@[simp] theorem setAllV_FB (v : Vector Byte 16) : (s.setAllV v).FB = s.FB := rfl
@[simp] theorem setAllV_KEY (v : Vector Byte 16) : (s.setAllV v).KEY = s.KEY := rfl
@[simp] theorem setAllV_DIRTY (v : Vector Byte 16) : (s.setAllV v).DIRTY = s.DIRTY := rfl
@[simp] theorem setAllV_PROG_LEN (v : Vector Byte 16) : (s.setAllV v).PROG_LEN = s.PROG_LEN := rfl
@[simp] theorem setAllV_LOADED (v : Vector Byte 16) : (s.setAllV v).LOADED = s.LOADED := rfl
@[simp] theorem setAllV_rndCount (v : Vector Byte 16) : (s.setAllV v).rndCount = s.rndCount := rfl
@[simp] theorem readV_setAllV (v : Vector Byte 16) (j : Reg) : (s.setAllV v).readV j = v[j.val] := rfl
@[simp] theorem readByte_setAllV (v : Vector Byte 16) (a : Nat) (p : Params) :
    (s.setAllV v).readByte a p = s.readByte a p := rfl

@[simp] theorem setI_V (w : Word) : (s.setI w).V = s.V := rfl
@[simp] theorem setI_I (w : Word) : (s.setI w).I = w := rfl
@[simp] theorem setI_pc (w : Word) : (s.setI w).pc = s.pc := rfl
@[simp] theorem setI_stack (w : Word) : (s.setI w).stack = s.stack := rfl
@[simp] theorem setI_DT (w : Word) : (s.setI w).DT = s.DT := rfl
@[simp] theorem setI_ST (w : Word) : (s.setI w).ST = s.ST := rfl
@[simp] theorem setI_MEM (w : Word) : (s.setI w).MEM = s.MEM := rfl
@[simp] theorem setI_FB (w : Word) : (s.setI w).FB = s.FB := rfl
@[simp] theorem setI_KEY (w : Word) : (s.setI w).KEY = s.KEY := rfl
@[simp] theorem setI_DIRTY (w : Word) : (s.setI w).DIRTY = s.DIRTY := rfl
@[simp] theorem setI_PROG_LEN (w : Word) : (s.setI w).PROG_LEN = s.PROG_LEN := rfl
@[simp] theorem setI_LOADED (w : Word) : (s.setI w).LOADED = s.LOADED := rfl
@[simp] theorem setI_rndCount (w : Word) : (s.setI w).rndCount = s.rndCount := rfl
@[simp] theorem readV_setI (w : Word) (j : Reg) : (s.setI w).readV j = s.readV j := rfl
@[simp] theorem readByte_setI (w : Word) (a : Nat) (p : Params) :
    (s.setI w).readByte a p = s.readByte a p := rfl

@[simp] theorem setPc_V (w : Word) : (s.setPc w).V = s.V := rfl
@[simp] theorem setPc_I (w : Word) : (s.setPc w).I = s.I := rfl
@[simp] theorem setPc_pc (w : Word) : (s.setPc w).pc = w := rfl
@[simp] theorem setPc_stack (w : Word) : (s.setPc w).stack = s.stack := rfl
@[simp] theorem setPc_DT (w : Word) : (s.setPc w).DT = s.DT := rfl
@[simp] theorem setPc_ST (w : Word) : (s.setPc w).ST = s.ST := rfl
@[simp] theorem setPc_MEM (w : Word) : (s.setPc w).MEM = s.MEM := rfl
@[simp] theorem setPc_FB (w : Word) : (s.setPc w).FB = s.FB := rfl
@[simp] theorem setPc_KEY (w : Word) : (s.setPc w).KEY = s.KEY := rfl
@[simp] theorem setPc_DIRTY (w : Word) : (s.setPc w).DIRTY = s.DIRTY := rfl
@[simp] theorem setPc_PROG_LEN (w : Word) : (s.setPc w).PROG_LEN = s.PROG_LEN := rfl
@[simp] theorem setPc_LOADED (w : Word) : (s.setPc w).LOADED = s.LOADED := rfl
@[simp] theorem setPc_rndCount (w : Word) : (s.setPc w).rndCount = s.rndCount := rfl
@[simp] theorem readV_setPc (w : Word) (j : Reg) : (s.setPc w).readV j = s.readV j := rfl
@[simp] theorem readByte_setPc (w : Word) (a : Nat) (p : Params) :
    (s.setPc w).readByte a p = s.readByte a p := rfl

@[simp] theorem setStack_V (st : List Word) : (s.setStack st).V = s.V := rfl
@[simp] theorem setStack_I (st : List Word) : (s.setStack st).I = s.I := rfl
@[simp] theorem setStack_pc (st : List Word) : (s.setStack st).pc = s.pc := rfl
@[simp] theorem setStack_stack (st : List Word) : (s.setStack st).stack = st := rfl
@[simp] theorem setStack_DT (st : List Word) : (s.setStack st).DT = s.DT := rfl
@[simp] theorem setStack_ST (st : List Word) : (s.setStack st).ST = s.ST := rfl
@[simp] theorem setStack_MEM (st : List Word) : (s.setStack st).MEM = s.MEM := rfl
@[simp] theorem setStack_FB (st : List Word) : (s.setStack st).FB = s.FB := rfl
@[simp] theorem setStack_KEY (st : List Word) : (s.setStack st).KEY = s.KEY := rfl
@[simp] theorem setStack_DIRTY (st : List Word) : (s.setStack st).DIRTY = s.DIRTY := rfl
@[simp] theorem setStack_PROG_LEN (st : List Word) : (s.setStack st).PROG_LEN = s.PROG_LEN := rfl
@[simp] theorem setStack_LOADED (st : List Word) : (s.setStack st).LOADED = s.LOADED := rfl
@[simp] theorem setStack_rndCount (st : List Word) : (s.setStack st).rndCount = s.rndCount := rfl
@[simp] theorem readV_setStack (st : List Word) (j : Reg) : (s.setStack st).readV j = s.readV j := rfl
@[simp] theorem readByte_setStack (st : List Word) (a : Nat) (p : Params) :
    (s.setStack st).readByte a p = s.readByte a p := rfl

@[simp] theorem setDT_V (b : Byte) : (s.setDT b).V = s.V := rfl
@[simp] theorem setDT_I (b : Byte) : (s.setDT b).I = s.I := rfl
@[simp] theorem setDT_pc (b : Byte) : (s.setDT b).pc = s.pc := rfl
@[simp] theorem setDT_stack (b : Byte) : (s.setDT b).stack = s.stack := rfl
@[simp] theorem setDT_DT (b : Byte) : (s.setDT b).DT = b := rfl
@[simp] theorem setDT_ST (b : Byte) : (s.setDT b).ST = s.ST := rfl
@[simp] theorem setDT_MEM (b : Byte) : (s.setDT b).MEM = s.MEM := rfl
@[simp] theorem setDT_FB (b : Byte) : (s.setDT b).FB = s.FB := rfl
@[simp] theorem setDT_KEY (b : Byte) : (s.setDT b).KEY = s.KEY := rfl
@[simp] theorem setDT_DIRTY (b : Byte) : (s.setDT b).DIRTY = s.DIRTY := rfl
@[simp] theorem setDT_PROG_LEN (b : Byte) : (s.setDT b).PROG_LEN = s.PROG_LEN := rfl
@[simp] theorem setDT_LOADED (b : Byte) : (s.setDT b).LOADED = s.LOADED := rfl
@[simp] theorem setDT_rndCount (b : Byte) : (s.setDT b).rndCount = s.rndCount := rfl
@[simp] theorem readV_setDT (b : Byte) (j : Reg) : (s.setDT b).readV j = s.readV j := rfl
@[simp] theorem readByte_setDT (b : Byte) (a : Nat) (p : Params) :
    (s.setDT b).readByte a p = s.readByte a p := rfl

@[simp] theorem setST_V (b : Byte) : (s.setST b).V = s.V := rfl
@[simp] theorem setST_I (b : Byte) : (s.setST b).I = s.I := rfl
@[simp] theorem setST_pc (b : Byte) : (s.setST b).pc = s.pc := rfl
@[simp] theorem setST_stack (b : Byte) : (s.setST b).stack = s.stack := rfl
@[simp] theorem setST_DT (b : Byte) : (s.setST b).DT = s.DT := rfl
@[simp] theorem setST_ST (b : Byte) : (s.setST b).ST = b := rfl
@[simp] theorem setST_MEM (b : Byte) : (s.setST b).MEM = s.MEM := rfl
@[simp] theorem setST_FB (b : Byte) : (s.setST b).FB = s.FB := rfl
@[simp] theorem setST_KEY (b : Byte) : (s.setST b).KEY = s.KEY := rfl
@[simp] theorem setST_DIRTY (b : Byte) : (s.setST b).DIRTY = s.DIRTY := rfl
@[simp] theorem setST_PROG_LEN (b : Byte) : (s.setST b).PROG_LEN = s.PROG_LEN := rfl
@[simp] theorem setST_LOADED (b : Byte) : (s.setST b).LOADED = s.LOADED := rfl
@[simp] theorem setST_rndCount (b : Byte) : (s.setST b).rndCount = s.rndCount := rfl
@[simp] theorem readV_setST (b : Byte) (j : Reg) : (s.setST b).readV j = s.readV j := rfl
@[simp] theorem readByte_setST (b : Byte) (a : Nat) (p : Params) :
    (s.setST b).readByte a p = s.readByte a p := rfl

@[simp] theorem setMEM_V (m : List Host.Cell) : (s.setMEM m).V = s.V := rfl
@[simp] theorem setMEM_I (m : List Host.Cell) : (s.setMEM m).I = s.I := rfl
@[simp] theorem setMEM_pc (m : List Host.Cell) : (s.setMEM m).pc = s.pc := rfl
@[simp] theorem setMEM_stack (m : List Host.Cell) : (s.setMEM m).stack = s.stack := rfl
@[simp] theorem setMEM_DT (m : List Host.Cell) : (s.setMEM m).DT = s.DT := rfl
@[simp] theorem setMEM_ST (m : List Host.Cell) : (s.setMEM m).ST = s.ST := rfl
@[simp] theorem setMEM_MEM (m : List Host.Cell) : (s.setMEM m).MEM = m := rfl
@[simp] theorem setMEM_FB (m : List Host.Cell) : (s.setMEM m).FB = s.FB := rfl
@[simp] theorem setMEM_KEY (m : List Host.Cell) : (s.setMEM m).KEY = s.KEY := rfl
@[simp] theorem setMEM_DIRTY (m : List Host.Cell) : (s.setMEM m).DIRTY = s.DIRTY := rfl
@[simp] theorem setMEM_PROG_LEN (m : List Host.Cell) : (s.setMEM m).PROG_LEN = s.PROG_LEN := rfl
@[simp] theorem setMEM_LOADED (m : List Host.Cell) : (s.setMEM m).LOADED = s.LOADED := rfl
@[simp] theorem setMEM_rndCount (m : List Host.Cell) : (s.setMEM m).rndCount = s.rndCount := rfl
@[simp] theorem readV_setMEM (m : List Host.Cell) (j : Reg) : (s.setMEM m).readV j = s.readV j := rfl
@[simp] theorem readByte_setMEM (m : List Host.Cell) (a : Nat) (p : Params) :
    (s.setMEM m).readByte a p = Memory.read m a p := rfl

@[simp] theorem setFB_V (fb : Framebuffer) : (s.setFB fb).V = s.V := rfl
@[simp] theorem setFB_I (fb : Framebuffer) : (s.setFB fb).I = s.I := rfl
@[simp] theorem setFB_pc (fb : Framebuffer) : (s.setFB fb).pc = s.pc := rfl
@[simp] theorem setFB_stack (fb : Framebuffer) : (s.setFB fb).stack = s.stack := rfl
@[simp] theorem setFB_DT (fb : Framebuffer) : (s.setFB fb).DT = s.DT := rfl
@[simp] theorem setFB_ST (fb : Framebuffer) : (s.setFB fb).ST = s.ST := rfl
@[simp] theorem setFB_MEM (fb : Framebuffer) : (s.setFB fb).MEM = s.MEM := rfl
@[simp] theorem setFB_FB (fb : Framebuffer) : (s.setFB fb).FB = fb := rfl
@[simp] theorem setFB_KEY (fb : Framebuffer) : (s.setFB fb).KEY = s.KEY := rfl
@[simp] theorem setFB_DIRTY (fb : Framebuffer) : (s.setFB fb).DIRTY = s.DIRTY := rfl
@[simp] theorem setFB_PROG_LEN (fb : Framebuffer) : (s.setFB fb).PROG_LEN = s.PROG_LEN := rfl
@[simp] theorem setFB_LOADED (fb : Framebuffer) : (s.setFB fb).LOADED = s.LOADED := rfl
@[simp] theorem setFB_rndCount (fb : Framebuffer) : (s.setFB fb).rndCount = s.rndCount := rfl
@[simp] theorem readV_setFB (fb : Framebuffer) (j : Reg) : (s.setFB fb).readV j = s.readV j := rfl
@[simp] theorem readByte_setFB (fb : Framebuffer) (a : Nat) (p : Params) :
    (s.setFB fb).readByte a p = s.readByte a p := rfl

@[simp] theorem setKEY_V (k : Fin 16) (b : Bool) : (s.setKEY k b).V = s.V := rfl
@[simp] theorem setKEY_I (k : Fin 16) (b : Bool) : (s.setKEY k b).I = s.I := rfl
@[simp] theorem setKEY_pc (k : Fin 16) (b : Bool) : (s.setKEY k b).pc = s.pc := rfl
@[simp] theorem setKEY_stack (k : Fin 16) (b : Bool) : (s.setKEY k b).stack = s.stack := rfl
@[simp] theorem setKEY_DT (k : Fin 16) (b : Bool) : (s.setKEY k b).DT = s.DT := rfl
@[simp] theorem setKEY_ST (k : Fin 16) (b : Bool) : (s.setKEY k b).ST = s.ST := rfl
@[simp] theorem setKEY_MEM (k : Fin 16) (b : Bool) : (s.setKEY k b).MEM = s.MEM := rfl
@[simp] theorem setKEY_FB (k : Fin 16) (b : Bool) : (s.setKEY k b).FB = s.FB := rfl
@[simp] theorem setKEY_KEY (k : Fin 16) (b : Bool) : (s.setKEY k b).KEY = s.KEY.set k.val b := rfl
@[simp] theorem setKEY_DIRTY (k : Fin 16) (b : Bool) : (s.setKEY k b).DIRTY = s.DIRTY := rfl
@[simp] theorem setKEY_PROG_LEN (k : Fin 16) (b : Bool) : (s.setKEY k b).PROG_LEN = s.PROG_LEN := rfl
@[simp] theorem setKEY_LOADED (k : Fin 16) (b : Bool) : (s.setKEY k b).LOADED = s.LOADED := rfl
@[simp] theorem setKEY_rndCount (k : Fin 16) (b : Bool) : (s.setKEY k b).rndCount = s.rndCount := rfl
@[simp] theorem readV_setKEY (k : Fin 16) (b : Bool) (j : Reg) : (s.setKEY k b).readV j = s.readV j := rfl
@[simp] theorem readByte_setKEY (k : Fin 16) (b : Bool) (a : Nat) (p : Params) :
    (s.setKEY k b).readByte a p = s.readByte a p := rfl

@[simp] theorem setDIRTY_V (b : Bool) : (s.setDIRTY b).V = s.V := rfl
@[simp] theorem setDIRTY_I (b : Bool) : (s.setDIRTY b).I = s.I := rfl
@[simp] theorem setDIRTY_pc (b : Bool) : (s.setDIRTY b).pc = s.pc := rfl
@[simp] theorem setDIRTY_stack (b : Bool) : (s.setDIRTY b).stack = s.stack := rfl
@[simp] theorem setDIRTY_DT (b : Bool) : (s.setDIRTY b).DT = s.DT := rfl
@[simp] theorem setDIRTY_ST (b : Bool) : (s.setDIRTY b).ST = s.ST := rfl
@[simp] theorem setDIRTY_MEM (b : Bool) : (s.setDIRTY b).MEM = s.MEM := rfl
@[simp] theorem setDIRTY_FB (b : Bool) : (s.setDIRTY b).FB = s.FB := rfl
@[simp] theorem setDIRTY_KEY (b : Bool) : (s.setDIRTY b).KEY = s.KEY := rfl
@[simp] theorem setDIRTY_DIRTY (b : Bool) : (s.setDIRTY b).DIRTY = b := rfl
@[simp] theorem setDIRTY_PROG_LEN (b : Bool) : (s.setDIRTY b).PROG_LEN = s.PROG_LEN := rfl
@[simp] theorem setDIRTY_LOADED (b : Bool) : (s.setDIRTY b).LOADED = s.LOADED := rfl
@[simp] theorem setDIRTY_rndCount (b : Bool) : (s.setDIRTY b).rndCount = s.rndCount := rfl
@[simp] theorem readV_setDIRTY (b : Bool) (j : Reg) : (s.setDIRTY b).readV j = s.readV j := rfl
@[simp] theorem readByte_setDIRTY (b : Bool) (a : Nat) (p : Params) :
    (s.setDIRTY b).readByte a p = s.readByte a p := rfl

@[simp] theorem setLoaded_V (n : Nat) : (s.setLoaded n).V = s.V := rfl
@[simp] theorem setLoaded_I (n : Nat) : (s.setLoaded n).I = s.I := rfl
@[simp] theorem setLoaded_pc (n : Nat) : (s.setLoaded n).pc = s.pc := rfl
@[simp] theorem setLoaded_stack (n : Nat) : (s.setLoaded n).stack = s.stack := rfl
@[simp] theorem setLoaded_DT (n : Nat) : (s.setLoaded n).DT = s.DT := rfl
@[simp] theorem setLoaded_ST (n : Nat) : (s.setLoaded n).ST = s.ST := rfl
@[simp] theorem setLoaded_MEM (n : Nat) : (s.setLoaded n).MEM = s.MEM := rfl
@[simp] theorem setLoaded_FB (n : Nat) : (s.setLoaded n).FB = s.FB := rfl
@[simp] theorem setLoaded_KEY (n : Nat) : (s.setLoaded n).KEY = s.KEY := rfl
@[simp] theorem setLoaded_DIRTY (n : Nat) : (s.setLoaded n).DIRTY = s.DIRTY := rfl
@[simp] theorem setLoaded_PROG_LEN (n : Nat) : (s.setLoaded n).PROG_LEN = n := rfl
@[simp] theorem setLoaded_LOADED (n : Nat) : (s.setLoaded n).LOADED = true := rfl
@[simp] theorem setLoaded_rndCount (n : Nat) : (s.setLoaded n).rndCount = s.rndCount := rfl
@[simp] theorem readV_setLoaded (n : Nat) (j : Reg) : (s.setLoaded n).readV j = s.readV j := rfl
@[simp] theorem readByte_setLoaded (n : Nat) (a : Nat) (p : Params) :
    (s.setLoaded n).readByte a p = s.readByte a p := rfl

@[simp] theorem countRnd_V : (s.countRnd).V = s.V := rfl
@[simp] theorem countRnd_I : (s.countRnd).I = s.I := rfl
@[simp] theorem countRnd_pc : (s.countRnd).pc = s.pc := rfl
@[simp] theorem countRnd_stack : (s.countRnd).stack = s.stack := rfl
@[simp] theorem countRnd_DT : (s.countRnd).DT = s.DT := rfl
@[simp] theorem countRnd_ST : (s.countRnd).ST = s.ST := rfl
@[simp] theorem countRnd_MEM : (s.countRnd).MEM = s.MEM := rfl
@[simp] theorem countRnd_FB : (s.countRnd).FB = s.FB := rfl
@[simp] theorem countRnd_KEY : (s.countRnd).KEY = s.KEY := rfl
@[simp] theorem countRnd_DIRTY : (s.countRnd).DIRTY = s.DIRTY := rfl
@[simp] theorem countRnd_PROG_LEN : (s.countRnd).PROG_LEN = s.PROG_LEN := rfl
@[simp] theorem countRnd_LOADED : (s.countRnd).LOADED = s.LOADED := rfl
@[simp] theorem countRnd_rndCount : (s.countRnd).rndCount = s.rndCount + 1 := rfl
@[simp] theorem readV_countRnd (j : Reg) : (s.countRnd).readV j = s.readV j := rfl
@[simp] theorem readByte_countRnd (a : Nat) (p : Params) : (s.countRnd).readByte a p = s.readByte a p := rfl

@[simp] theorem advance_V : (s.advance).V = s.V := rfl
@[simp] theorem advance_I : (s.advance).I = s.I := rfl
@[simp] theorem advance_pc : (s.advance).pc = s.pc + 2 := rfl
@[simp] theorem advance_stack : (s.advance).stack = s.stack := rfl
@[simp] theorem advance_DT : (s.advance).DT = s.DT := rfl
@[simp] theorem advance_ST : (s.advance).ST = s.ST := rfl
@[simp] theorem advance_MEM : (s.advance).MEM = s.MEM := rfl
@[simp] theorem advance_FB : (s.advance).FB = s.FB := rfl
@[simp] theorem advance_KEY : (s.advance).KEY = s.KEY := rfl
@[simp] theorem advance_DIRTY : (s.advance).DIRTY = s.DIRTY := rfl
@[simp] theorem advance_PROG_LEN : (s.advance).PROG_LEN = s.PROG_LEN := rfl
@[simp] theorem advance_LOADED : (s.advance).LOADED = s.LOADED := rfl
@[simp] theorem advance_rndCount : (s.advance).rndCount = s.rndCount := rfl
@[simp] theorem readV_advance (j : Reg) : (s.advance).readV j = s.readV j := rfl
@[simp] theorem readByte_advance (a : Nat) (p : Params) : (s.advance).readByte a p = s.readByte a p := rfl

@[simp] theorem skipIf_V (c : Bool) : (s.skipIf c).V = s.V := rfl
@[simp] theorem skipIf_I (c : Bool) : (s.skipIf c).I = s.I := rfl
@[simp] theorem skipIf_pc (c : Bool) : (s.skipIf c).pc = if c then s.pc + 4 else s.pc + 2 := rfl
@[simp] theorem skipIf_stack (c : Bool) : (s.skipIf c).stack = s.stack := rfl
@[simp] theorem skipIf_DT (c : Bool) : (s.skipIf c).DT = s.DT := rfl
@[simp] theorem skipIf_ST (c : Bool) : (s.skipIf c).ST = s.ST := rfl
@[simp] theorem skipIf_MEM (c : Bool) : (s.skipIf c).MEM = s.MEM := rfl
@[simp] theorem skipIf_FB (c : Bool) : (s.skipIf c).FB = s.FB := rfl
@[simp] theorem skipIf_KEY (c : Bool) : (s.skipIf c).KEY = s.KEY := rfl
@[simp] theorem skipIf_DIRTY (c : Bool) : (s.skipIf c).DIRTY = s.DIRTY := rfl
@[simp] theorem skipIf_PROG_LEN (c : Bool) : (s.skipIf c).PROG_LEN = s.PROG_LEN := rfl
@[simp] theorem skipIf_LOADED (c : Bool) : (s.skipIf c).LOADED = s.LOADED := rfl
@[simp] theorem skipIf_rndCount (c : Bool) : (s.skipIf c).rndCount = s.rndCount := rfl
@[simp] theorem readV_skipIf (c : Bool) (j : Reg) : (s.skipIf c).readV j = s.readV j := rfl
@[simp] theorem readByte_skipIf (c : Bool) (a : Nat) (p : Params) :
    (s.skipIf c).readByte a p = s.readByte a p := rfl

/-- The flag is the last value VF takes; another destination keeps its result (41_register_alu.md R131). -/
@[simp] theorem readV_setResultAndFlag (x : Reg) (r : Byte) (c : Bool) (j : Reg) :
    (s.setResultAndFlag x r c).readV j = if j = vF then flagByte c else if j = x then r else s.readV j := by
  simp [setResultAndFlag]

@[simp] theorem setResultAndFlag_I (x : Reg) (r : Byte) (c : Bool) : (s.setResultAndFlag x r c).I = s.I := rfl
@[simp] theorem setResultAndFlag_pc (x : Reg) (r : Byte) (c : Bool) : (s.setResultAndFlag x r c).pc = s.pc := rfl
@[simp] theorem setResultAndFlag_stack (x : Reg) (r : Byte) (c : Bool) : (s.setResultAndFlag x r c).stack = s.stack := rfl
@[simp] theorem setResultAndFlag_DT (x : Reg) (r : Byte) (c : Bool) : (s.setResultAndFlag x r c).DT = s.DT := rfl
@[simp] theorem setResultAndFlag_ST (x : Reg) (r : Byte) (c : Bool) : (s.setResultAndFlag x r c).ST = s.ST := rfl
@[simp] theorem setResultAndFlag_MEM (x : Reg) (r : Byte) (c : Bool) : (s.setResultAndFlag x r c).MEM = s.MEM := rfl
@[simp] theorem setResultAndFlag_FB (x : Reg) (r : Byte) (c : Bool) : (s.setResultAndFlag x r c).FB = s.FB := rfl
@[simp] theorem setResultAndFlag_KEY (x : Reg) (r : Byte) (c : Bool) : (s.setResultAndFlag x r c).KEY = s.KEY := rfl
@[simp] theorem setResultAndFlag_DIRTY (x : Reg) (r : Byte) (c : Bool) : (s.setResultAndFlag x r c).DIRTY = s.DIRTY := rfl
@[simp] theorem setResultAndFlag_PROG_LEN (x : Reg) (r : Byte) (c : Bool) : (s.setResultAndFlag x r c).PROG_LEN = s.PROG_LEN := rfl
@[simp] theorem setResultAndFlag_LOADED (x : Reg) (r : Byte) (c : Bool) : (s.setResultAndFlag x r c).LOADED = s.LOADED := rfl
@[simp] theorem setResultAndFlag_rndCount (x : Reg) (r : Byte) (c : Bool) : (s.setResultAndFlag x r c).rndCount = s.rndCount := rfl
@[simp] theorem readByte_setResultAndFlag (x : Reg) (r : Byte) (c : Bool) (a : Nat) (p : Params) :
    (s.setResultAndFlag x r c).readByte a p = s.readByte a p := rfl

end Sys2Proof.Machine.State
end

