-- ==== Sys2Proof/Laws/Ops.lean ====
section
/-! SUPPORT. What each shared operation can do, said once: the call stack, the keypad, the operand forms and the flag
values. -/

namespace Sys2Proof.Machine

/-! ### Flags -/

@[simp] theorem flagByte_true : flagByte true = 1 := rfl

@[simp] theorem flagByte_false : flagByte false = 0 := rfl

theorem toNat_flagByte (c : Bool) : (flagByte c).toNat = if c then 1 else 0 := by cases c <;> rfl

/-! ### Call stack -/

/-- A call writes the stack and `pc`, or nothing (40_fetch_control.md R103, R104). -/
theorem State.callTo_cases (s : State) (target : Word) (depth : Nat) :
    (s.stack.length < depth ∧ s.callTo target depth = (s.setStack ((s.pc + 2) :: s.stack)).setPc target) ∨
      (depth ≤ s.stack.length ∧ s.callTo target depth = s) := by
  by_cases h : s.stack.length < depth
  · exact .inl ⟨h, if_pos h⟩
  · exact .inr ⟨Nat.le_of_not_lt h, if_neg h⟩

/-- A return writes the stack and `pc`, or nothing (R105, R106). -/
theorem State.returnFromCall_cases (s : State) :
    (∃ a rest, s.stack = a :: rest ∧ s.returnFromCall = (s.setStack rest).setPc a) ∨
      (s.stack = [] ∧ s.returnFromCall = s) := by
  rcases h : s.stack with _ | ⟨a, rest⟩
  · exact .inr ⟨rfl, by simp only [returnFromCall, h]⟩
  · exact .inl ⟨a, rest, rfl, by simp only [returnFromCall, h]⟩

/-! ### Keypad -/

theorem State.keyIsDown_lt (s : State) (k : Nat) (h : k < 16) : s.keyIsDown k = s.KEY[k] := dif_pos h

/-- A value above 0xF names no key (43_keypad.md R181). -/
theorem State.keyIsDown_ge (s : State) (k : Nat) (h : 16 ≤ k) : s.keyIsDown k = false :=
  dif_neg (Nat.not_lt.2 h)

/-- No lowest key: no key is down. -/
theorem State.lowestKey_eq_none (s : State) : s.lowestKey = none ↔ ∀ k < 16, s.keyIsDown k = false := by
  simp [lowestKey, List.find?_eq_none]

/-- The lowest key is down, is a key, and no key below it is down. -/
theorem State.lowestKey_spec (s : State) (k : Nat) (h : s.lowestKey = some k) :
    k < 16 ∧ s.keyIsDown k = true ∧ ∀ j < k, s.keyIsDown j = false := by
  have hk := List.find?_range_eq_some.1 h
  exact ⟨List.mem_range.1 hk.2.1, hk.1, fun j hj => by simpa using hk.2.2 j hj⟩

/-! ### Operand forms -/

/-- The block transfer takes `x + 1` registers. -/
@[simp] theorem State.length_firstRegs (s : State) (x : Reg) : (s.firstRegs x).length = x.val + 1 := by
  simp [firstRegs]

/-- The `k`-th byte of a block transfer is `V[k]`. -/
theorem State.getElem_firstRegs (s : State) (x k : Reg) (h : k.val < (s.firstRegs x).length) :
    (s.firstRegs x)[k.val] = s.readV k := by
  simp [firstRegs, readV]

/-- A block load writes V0 to Vx and no other register (44_memory_transfer.md R205). -/
theorem State.getElem_loadFirstRegs (s : State) (x k : Reg) {p : Params} :
    (s.loadFirstRegs x p)[k.val] = if k ≤ x then s.readByte (s.I.toNat + k.val) p else s.readV k := by
  simp [loadFirstRegs]

@[simp] theorem length_bcdDigits (v : Byte) : (bcdDigits v).length = 3 := rfl

end Sys2Proof.Machine
end

