-- ==== Sys2Proof/Laws/Exec.lean ====
section
/-! SUPPORT. The next state of each instruction in terms of the named operations: one lemma per instruction, which
later proofs rewrite with instead of unfolding `exec`. -/

namespace Sys2Proof.Machine

/-- The canvas a draw leaves. -/
abbrev drawnCanvas (s : State) (x y : Reg) (n : Nibble) : Canvas :=
  drawRows s.MEM s.I.toNat (s.readV x).toNat (s.readV y).toNat n.toNat ⟨s.FB, false⟩

theorem exec_cls (s : State) :
    exec .cls s = .next (((s.setFB blankScreen).setDIRTY true).advance) := rfl

theorem exec_ret (s : State) :
    exec .ret s = .next (s.returnFromCall) := rfl

theorem exec_sys (nnn : Addr12) (s : State) :
    exec (.sys nnn) s = .next (s.advance) := rfl

theorem exec_jp (nnn : Addr12) (s : State) :
    exec (.jp nnn) s = .next (s.setPc (nnn.setWidth 16)) := rfl

theorem exec_call (nnn : Addr12) (s : State) :
    exec (.call nnn) s = .next (s.callTo (nnn.setWidth 16)) := rfl

theorem exec_seImm (x : Reg) (nn : Byte) (s : State) :
    exec (.seImm x nn) s = .next (s.skipIf (s.readV x == nn)) := rfl

theorem exec_sneImm (x : Reg) (nn : Byte) (s : State) :
    exec (.sneImm x nn) s = .next (s.skipIf (s.readV x != nn)) := rfl

theorem exec_seReg (x y : Reg) (n : Nibble) (s : State) :
    exec (.seReg x y n) s = .next (s.skipIf (s.readV x == s.readV y)) := rfl

theorem exec_ldImm (x : Reg) (nn : Byte) (s : State) :
    exec (.ldImm x nn) s = .next ((s.setV x nn).advance) := rfl

theorem exec_addImm (x : Reg) (nn : Byte) (s : State) :
    exec (.addImm x nn) s = .next ((s.setV x (s.readV x + nn)).advance) := rfl

theorem exec_ldReg (x y : Reg) (s : State) :
    exec (.ldReg x y) s = .next ((s.setV x (s.readV y)).advance) := rfl

theorem exec_orReg (x y : Reg) (s : State) :
    exec (.orReg x y) s = .next ((s.setV x (s.readV x ||| s.readV y)).advance) := rfl

theorem exec_andReg (x y : Reg) (s : State) :
    exec (.andReg x y) s = .next ((s.setV x (s.readV x &&& s.readV y)).advance) := rfl

theorem exec_xorReg (x y : Reg) (s : State) :
    exec (.xorReg x y) s = .next ((s.setV x (s.readV x ^^^ s.readV y)).advance) := rfl

theorem exec_addReg (x y : Reg) (s : State) :
    exec (.addReg x y) s =
      .next ((s.setResultAndFlag x (s.readV x + s.readV y) (carries (s.readV x) (s.readV y))).advance) := rfl

theorem exec_subReg (x y : Reg) (s : State) :
    exec (.subReg x y) s =
      .next ((s.setResultAndFlag x (s.readV x - s.readV y) (noBorrow (s.readV x) (s.readV y))).advance) := rfl

theorem exec_shr (x y : Reg) (s : State) :
    exec (.shr x y) s = .next ((s.setResultAndFlag x (s.readV x >>> 1) (shiftedOutRight (s.readV x))).advance) := rfl

theorem exec_subnReg (x y : Reg) (s : State) :
    exec (.subnReg x y) s =
      .next ((s.setResultAndFlag x (s.readV y - s.readV x) (noBorrow (s.readV y) (s.readV x))).advance) := rfl

theorem exec_shl (x y : Reg) (s : State) :
    exec (.shl x y) s = .next ((s.setResultAndFlag x (s.readV x <<< 1) (shiftedOutLeft (s.readV x))).advance) := rfl

theorem exec_sneReg (x y : Reg) (n : Nibble) (s : State) :
    exec (.sneReg x y n) s = .next (s.skipIf (s.readV x != s.readV y)) := rfl

theorem exec_ldI (nnn : Addr12) (s : State) :
    exec (.ldI nnn) s = .next ((s.setI (nnn.setWidth 16)).advance) := rfl

theorem exec_jpV0 (nnn : Addr12) (s : State) :
    exec (.jpV0 nnn) s = .next (s.setPc (nnn.setWidth 16 + (s.readV 0).setWidth 16)) := rfl

theorem exec_rnd (x : Reg) (nn : Byte) (s : State) :
    exec (.rnd x nn) s = .next ((s.rndWith (Config.hostRnd s.rndCount) x nn).countRnd) := rfl

theorem exec_drw (x y : Reg) (n : Nibble) (s : State) :
    exec (.drw x y n) s =
      .next ((((s.setFB (drawnCanvas s x y n).fb).setV vF (flagByte (drawnCanvas s x y n).hit)).setDIRTY true).advance) := rfl

theorem exec_skp (x : Reg) (s : State) :
    exec (.skp x) s = .next (s.skipIf (s.keyIsDown (s.readV x).toNat)) := rfl

theorem exec_sknp (x : Reg) (s : State) :
    exec (.sknp x) s = .next (s.skipIf (!s.keyIsDown (s.readV x).toNat)) := rfl

theorem exec_ldVxDT (x : Reg) (s : State) :
    exec (.ldVxDT x) s = .next ((s.setV x s.DT).advance) := rfl

theorem exec_ldDTVx (x : Reg) (s : State) :
    exec (.ldDTVx x) s = .next ((s.setDT (s.readV x)).advance) := rfl

theorem exec_ldSTVx (x : Reg) (s : State) :
    exec (.ldSTVx x) s = .next ((s.setST (s.readV x)).advance) := rfl

theorem exec_addI (x : Reg) (s : State) :
    exec (.addI x) s = .next ((s.setI (s.I + (s.readV x).setWidth 16)).advance) := rfl

theorem exec_ldF (x : Reg) (s : State) :
    exec (.ldF x) s = .next ((s.setI (glyphAddress (s.readV x))).advance) := rfl

theorem exec_ldB (x : Reg) (s : State) :
    exec (.ldB x) s = .next ((s.setMEM (Memory.writeBytes s.MEM s.I.toNat (bcdDigits (s.readV x)))).advance) := rfl

theorem exec_stRegs (x : Reg) (s : State) :
    exec (.stRegs x) s = .next ((s.setMEM (Memory.writeBytes s.MEM s.I.toNat (s.firstRegs x))).advance) := rfl

theorem exec_ldRegs (x : Reg) (s : State) :
    exec (.ldRegs x) s = .next ((s.setAllV (s.loadFirstRegs x)).advance) := rfl

theorem exec_unassigned (w : Word) (s : State) :
    exec (.unassigned w) s = .next (s.advance) := rfl

/-- The key wait: nothing written while no key is down (43_keypad.md R182). -/
theorem exec_ldVxK_none (x : Reg) (s : State) (h : s.lowestKey = none) : exec (.ldVxK x) s = .next s := by
  simp only [exec, execLdVxK, h]

theorem exec_ldVxK_some (x : Reg) (s : State) (k : Nat) (h : s.lowestKey = some k) :
    exec (.ldVxK x) s = .next ((s.setV x (BitVec.ofNat 8 k)).advance) := by
  simp only [exec, execLdVxK, h]

end Sys2Proof.Machine
end

