-- ==== Sys2Proof/Laws/Parametric.lean ====
section
/-! SUPPORT. The machine for any parameters: at the spec's defaults it is the machine of `exec` and `step`, and what the
six instructions that depend on a parameter do under any. Also that the operations of the core's boundary neither read
nor write the model's own counter, so that the spec's state record is a machine by itself (10_state.md R20). -/

namespace Sys2Proof.Machine

variable (p : Params) (s : State)

/-! ### The spec's defaults -/

@[simp] theorem execAt_spec (i : Instr) : execAt .spec i s = exec i s := by cases i <;> rfl

@[simp] theorem stepAt_spec : stepAt .spec s = step s := by rw [stepAt, execAt_spec, step]

/-! ### Any parameters -/

theorem execAt_call (nnn : Addr12) :
    execAt p (.call nnn) s = .next (s.callTo (nnn.setWidth 16) p.stackDepth) := rfl

theorem execAt_ldF (x : Reg) :
    execAt p (.ldF x) s = .next (s.setI (glyphAddress (s.readV x) p.fontBase.val)).advance := rfl

theorem execAt_ldB (x : Reg) : execAt p (.ldB x) s =
    .next (s.setMEM (Memory.writeBytes s.MEM s.I.toNat (bcdDigits (s.readV x)) p)).advance := rfl

theorem execAt_stRegs (x : Reg) : execAt p (.stRegs x) s =
    .next (s.setMEM (Memory.writeBytes s.MEM s.I.toNat (s.firstRegs x) p)).advance := rfl

theorem execAt_ldRegs (x : Reg) : execAt p (.ldRegs x) s = .next (s.setAllV (s.loadFirstRegs x p)).advance := rfl

/-- Memory at reset holds the font at FONT_BASE and zero elsewhere, whatever the two are (10_state.md R31, R38). -/
theorem readByte_reset (a : Nat) (h : a < 4096) : State.reset.readByte a p =
    if p.fontBase.val ≤ a then p.fontData.toList.getD (a - p.fontBase.val) 0 else 0 := by
  rw [State.readByte, Memory.read, Memory.addr, Nat.mod_eq_of_lt h]
  rfl

/-! ### The model's own counter -/

/-- The state with the model's counter at `n`. -/
abbrev State.atCount (s : State) (n : Nat) : State := { s with rndCount := n }

/-- No instruction but RND sees or moves the counter. -/
theorem execAt_atCount (i : Instr) (n : Nat) (hi : ∀ x nn, i ≠ .rnd x nn) :
    ∃ t, execAt p i s = .next t ∧ t.rndCount = s.rndCount ∧ execAt p i (s.atCount n) = .next (t.atCount n) := by
  cases i
  case rnd x nn => exact absurd rfl (hi x nn)
  case call nnn =>
    refine ⟨s.callTo (nnn.setWidth 16) p.stackDepth, rfl, ?_, ?_⟩ <;>
    by_cases h : s.stack.length < p.stackDepth <;> simp only [execAt_call, State.callTo, h, if_true, if_false] <;> rfl
  case ret =>
    refine ⟨s.returnFromCall, rfl, ?_, ?_⟩ <;>
    rcases s with ⟨⟨_, _, _, stack, _, _, _, _, _, _, _, _⟩, _⟩ <;> cases stack <;> rfl
  case ldVxK x =>
    have h' : (s.atCount n).lowestKey = s.lowestKey := rfl
    cases h : s.lowestKey with
    | none => exact ⟨s, by simp only [execAt, exec, execLdVxK, h], rfl, by simp only [execAt, exec, execLdVxK, h', h]⟩
    | some k => exact ⟨(s.setV x (BitVec.ofNat 8 k)).advance, by simp only [execAt, exec, execLdVxK, h], rfl,
        by simp only [execAt, exec, execLdVxK, h', h]; rfl⟩
  all_goals exact ⟨_, rfl, rfl, rfl⟩

/-- A `step(rnd)` neither sees nor moves the counter: RND reads the host's byte. -/
theorem stepWith_atCount (rnd : Byte) (n : Nat) : ∃ r t, stepWith rnd s p = .next (r, t) ∧
    t.rndCount = s.rndCount ∧ stepWith rnd (s.atCount n) p = .next (r, t.atCount n) := by
  have he : (s.atCount n).ended = s.ended := rfl
  have hf : (s.atCount n).fetchInstr p = s.fetchInstr p := rfl
  have hk : (s.atCount n).lowestKey = s.lowestKey := rfl
  simp only [stepWith, he, hf, hk]
  split
  · exact ⟨_, _, rfl, rfl, rfl⟩
  split
  · exact ⟨_, _, rfl, rfl, rfl⟩
  · split
    · exact ⟨_, _, rfl, rfl, rfl⟩
    · next x _ _ =>
      obtain ⟨t, h, hc, hn⟩ := execAt_atCount p s (.ldVxK x) n (by simp)
      exact ⟨_, t, congrArg finishStep h, hc, congrArg finishStep hn⟩
  · next hr _ =>
      obtain ⟨t, h, hc, hn⟩ := execAt_atCount p s (s.fetchInstr p) n hr
      exact ⟨_, t, congrArg finishStep h, hc, congrArg finishStep hn⟩

/-- Every operation of the boundary acts on the spec's record alone, and leaves the counter as it is. -/
theorem recordOp_of_applyOp (op : HostOp) : ∃ r t, applyOp op s p = .next (r, t) ∧ t.rndCount = s.rndCount ∧
    recordOp op s.toRecord p = .next (r, t.toRecord) := by
  cases op
  case step rnd =>
    obtain ⟨r, t, h, hc, hn⟩ := stepWith_atCount p s rnd 0
    exact ⟨r, t, h, hc, by simp only [recordOp, applyOp]; rw [hn]⟩
  case loadProgram bytes =>
    refine ⟨(loadProgram bytes s p).1, (loadProgram bytes s p).2, rfl, ?_, ?_⟩ <;>
    simp only [recordOp, applyOp, loadProgram] <;> split <;> rfl
  case keyDown code =>
    refine ⟨(setKey code true s).1, (setKey code true s).2, rfl, ?_, ?_⟩ <;>
    simp only [recordOp, applyOp, setKey] <;> split <;> rfl
  case keyUp code =>
    refine ⟨(setKey code false s).1, (setKey code false s).2, rfl, ?_, ?_⟩ <;>
    simp only [recordOp, applyOp, setKey] <;> split <;> rfl
  all_goals exact ⟨_, _, rfl, rfl, rfl⟩

/-- A host step of the record is the step of a state that holds it, whatever the state's counter. -/
theorem recordStep_of_stepWith {rnd : Byte} {r : HostResult} {t : State} (h : stepWith rnd s p = .next (r, t)) :
    recordStep rnd s.toRecord p = .next t.toRecord := by
  obtain ⟨r', t', h', -, hr⟩ := recordOp_of_applyOp p s (.step rnd)
  obtain ⟨rfl, rfl⟩ : r = r' ∧ t = t' := by simpa using h.symm.trans h'
  simp only [recordStep, hr]

/-- The step of the model is the step of the record machine at the free byte of this draw. -/
theorem recordStep_of_stepAt : ∃ t, stepAt p s = .next t ∧
    recordStep (Config.hostRnd s.rndCount) s.toRecord p = .next t.toRecord := by
  cases he : s.ended with
  | true => exact ⟨s, by rw [stepAt, if_pos he], recordStep_of_stepWith p s (by rw [stepWith, if_pos he])⟩
  | false =>
    by_cases hr : ∃ x nn, s.fetchInstr p = .rnd x nn
    · obtain ⟨x, nn, hf⟩ := hr
      refine ⟨(s.rndWith (Config.hostRnd s.rndCount) x nn).countRnd, by simp only [stepAt, he, hf]; rfl, ?_⟩
      exact recordStep_of_stepWith p s (t := s.rndWith (Config.hostRnd s.rndCount) x nn)
        (by simp only [stepWith, he, hf]; rfl)
    · obtain ⟨t, ht, -, -⟩ := execAt_atCount p s (s.fetchInstr p) 0 (fun x nn h => hr ⟨x, nn, h⟩)
      refine ⟨t, by simp only [stepAt, he]; exact ht, ?_⟩
      by_cases hk : ∃ x, s.fetchInstr p = .ldVxK x ∧ s.lowestKey = none
      · obtain ⟨x, hf, hn⟩ := hk
        obtain rfl : s = t := by simpa [hf, execAt, exec, execLdVxK, hn] using ht
        exact recordStep_of_stepWith p s (by simp only [stepWith, he, hf, hn]; rfl)
      · refine recordStep_of_stepWith p s (r := .stepped (resultAfter t)) (t := t) ?_
        simp only [stepWith, he, Bool.false_eq_true, if_false]
        split
        · next x nn hf => exact absurd ⟨x, nn, hf⟩ hr
        · next x hf =>
          rw [hf] at ht
          rw [if_neg (fun hn => hk ⟨x, hf, hn⟩)]
          exact congrArg finishStep ht
        · exact congrArg finishStep ht

end Sys2Proof.Machine
end

