-- ==== Sys2Proof/Laws/PerInstr.lean ====
section
/-! SUPPORT. Statements made per instruction: the word an instruction encodes to has the fixed bits of its row of
spec/opcode_table.json (30_encoding.md R81). -/

namespace Sys2Proof.Laws.RowMatch

/-- The encoded word matches the mask and match of its row. -/
def Statement (i : Instr) : Prop := rowMatches (encodeWord i) (rowOf i) = true

/-- A row matches when the masked word is the row's match. -/
theorem of_mask_eq {i : Instr} (h : encodeWord i &&& (rowOf i).1 = (rowOf i).2) : Statement i := by
  rw [Statement, rowMatches, h, beq_self_eq_true]

theorem cls : Statement .cls := of_mask_eq (by decide)

theorem ret : Statement .ret := of_mask_eq (by decide)

theorem sys (nnn : Addr12) : Statement (.sys nnn) := of_mask_eq (mask_encNNN ..)

theorem jp (nnn : Addr12) : Statement (.jp nnn) := of_mask_eq (mask_encNNN ..)

theorem call (nnn : Addr12) : Statement (.call nnn) := of_mask_eq (mask_encNNN ..)

theorem seImm (x : Reg) (nn : Byte) : Statement (.seImm x nn) := of_mask_eq (mask_encNNN ..)

theorem sneImm (x : Reg) (nn : Byte) : Statement (.sneImm x nn) := of_mask_eq (mask_encNNN ..)

theorem seReg (x : Reg) (y : Reg) (n : Nibble) : Statement (.seReg x y n) := of_mask_eq (mask_encNNN ..)

theorem ldImm (x : Reg) (nn : Byte) : Statement (.ldImm x nn) := of_mask_eq (mask_encNNN ..)

theorem addImm (x : Reg) (nn : Byte) : Statement (.addImm x nn) := of_mask_eq (mask_encNNN ..)

theorem ldReg (x : Reg) (y : Reg) : Statement (.ldReg x y) := of_mask_eq (mask_encXYN ..)

theorem orReg (x : Reg) (y : Reg) : Statement (.orReg x y) := of_mask_eq (mask_encXYN ..)

theorem andReg (x : Reg) (y : Reg) : Statement (.andReg x y) := of_mask_eq (mask_encXYN ..)

theorem xorReg (x : Reg) (y : Reg) : Statement (.xorReg x y) := of_mask_eq (mask_encXYN ..)

theorem addReg (x : Reg) (y : Reg) : Statement (.addReg x y) := of_mask_eq (mask_encXYN ..)

theorem subReg (x : Reg) (y : Reg) : Statement (.subReg x y) := of_mask_eq (mask_encXYN ..)

theorem shr (x : Reg) (y : Reg) : Statement (.shr x y) := of_mask_eq (mask_encXYN ..)

theorem subnReg (x : Reg) (y : Reg) : Statement (.subnReg x y) := of_mask_eq (mask_encXYN ..)

theorem shl (x : Reg) (y : Reg) : Statement (.shl x y) := of_mask_eq (mask_encXYN ..)

theorem sneReg (x : Reg) (y : Reg) (n : Nibble) : Statement (.sneReg x y n) := of_mask_eq (mask_encNNN ..)

theorem ldI (nnn : Addr12) : Statement (.ldI nnn) := of_mask_eq (mask_encNNN ..)

theorem jpV0 (nnn : Addr12) : Statement (.jpV0 nnn) := of_mask_eq (mask_encNNN ..)

theorem rnd (x : Reg) (nn : Byte) : Statement (.rnd x nn) := of_mask_eq (mask_encNNN ..)

theorem drw (x : Reg) (y : Reg) (n : Nibble) : Statement (.drw x y n) := of_mask_eq (mask_encNNN ..)

theorem skp (x : Reg) : Statement (.skp x) := of_mask_eq (mask_encXNN ..)

theorem sknp (x : Reg) : Statement (.sknp x) := of_mask_eq (mask_encXNN ..)

theorem ldVxDT (x : Reg) : Statement (.ldVxDT x) := of_mask_eq (mask_encXNN ..)

theorem ldVxK (x : Reg) : Statement (.ldVxK x) := of_mask_eq (mask_encXNN ..)

theorem ldDTVx (x : Reg) : Statement (.ldDTVx x) := of_mask_eq (mask_encXNN ..)

theorem ldSTVx (x : Reg) : Statement (.ldSTVx x) := of_mask_eq (mask_encXNN ..)

theorem addI (x : Reg) : Statement (.addI x) := of_mask_eq (mask_encXNN ..)

theorem ldF (x : Reg) : Statement (.ldF x) := of_mask_eq (mask_encXNN ..)

theorem ldB (x : Reg) : Statement (.ldB x) := of_mask_eq (mask_encXNN ..)

theorem stRegs (x : Reg) : Statement (.stRegs x) := of_mask_eq (mask_encXNN ..)

theorem ldRegs (x : Reg) : Statement (.ldRegs x) := of_mask_eq (mask_encXNN ..)

theorem unassigned (w : Word) : Statement (.unassigned w) := of_mask_eq BitVec.and_zero

end Sys2Proof.Laws.RowMatch
end

