-- ==== Sys2Proof/Laws/Step.lean ====
section
/-! SUPPORT. What a step and a host operation can do, said once. -/

namespace Sys2Proof.Machine

/-- At the program's end a step writes nothing (40_fetch_control.md R101). -/
theorem step_of_ended (s : State) (h : s.ended = true) : step s = .next s := by
  rw [step, if_pos h]

/-- Before the program's end a step executes the instruction at `pc` (R100). -/
theorem step_of_not_ended (s : State) (h : s.ended = false) : step s = exec s.fetchInstr s := by
  rw [step, h]; rfl

/-- All a step can do. -/
theorem step_cases (s t : State) (h : step s = .next t) :
    (s.ended = true ∧ t = s) ∨ (s.ended = false ∧ exec s.fetchInstr s = .next t) := by
  cases he : s.ended with
  | true => rw [step_of_ended s he] at h; exact .inl ⟨rfl, by injection h with h; exact h.symm⟩
  | false => exact .inr ⟨rfl, step_of_not_ended s he ▸ h⟩

theorem ended_iff (s : State) : s.ended = true ↔ 0x200 + s.PROG_LEN ≤ s.pc.toNat :=
  decide_eq_true_iff

theorem stepWith_of_ended (rnd : Byte) (s : State) (h : s.ended = true) :
    stepWith rnd s = .next (.stepped .programEnded, s) := by
  rw [stepWith, if_pos h]

/-- A `step(rnd)` that executes RND uses the byte the host gave (46_host_interface.md R244). -/
theorem stepWith_rnd (rnd : Byte) (s : State) (x : Reg) (nn : Byte) (h : s.ended = false)
    (hf : s.fetchInstr = .rnd x nn) :
    stepWith rnd s = .next (.stepped (resultAfter (s.rndWith rnd x nn)), s.rndWith rnd x nn) := by
  simp only [stepWith, h, hf, finishStep, Bool.false_eq_true, if_false]

/-- A `step(rnd)` at a key wait with no key down (43_keypad.md R182). -/
theorem stepWith_waiting (rnd : Byte) (s : State) (x : Reg) (h : s.ended = false) (hf : s.fetchInstr = .ldVxK x)
    (hk : s.lowestKey = none) : stepWith rnd s = .next (.stepped .awaitingKey, s) := by
  simp only [stepWith, h, hf, hk, Bool.false_eq_true, if_false, if_true]

/-- Every other `step(rnd)` is the instruction's own outcome and the second end-of-program test (R100). -/
theorem stepWith_else (rnd : Byte) (s : State) (h : s.ended = false) (hr : ∀ x nn, s.fetchInstr ≠ .rnd x nn)
    (hk : ∀ x, s.fetchInstr = .ldVxK x → s.lowestKey ≠ none) :
    stepWith rnd s = finishStep (exec s.fetchInstr s) := by
  simp only [stepWith, h, Bool.false_eq_true, if_false]
  split
  · next x nn hf => exact absurd hf (hr x nn)
  · next x hf => rw [if_neg (hk x hf), hf]
  · rw [execAt_spec]

end Sys2Proof.Machine
end

