-- ==== Sys2Proof/Tests/Slice0.lean ====
section
/-! SUPPORT. The model's own tests: the smoke test of WellFormed, every constructor's word written out from
30_encoding.md R73, the vectors of 95_test_vectors.md (named in each comment), and for each statement with hypotheses a
witness that meets them. -/

namespace Sys2Proof.Tests

open Sys2Proof Sys2Proof.Machine

/-! ### WellFormed smoke (30_encoding.md R75, R80) -/

theorem test_wf_refuses_sys_of_cls_word : (Instr.sys 0x0E0).wf = false := by decide
theorem test_wf_refuses_sys_of_ret_word : (Instr.sys 0x0EE).wf = false := by decide
theorem test_wf_refuses_unassigned_of_assigned_8 : (Instr.unassigned 0x8127).wf = false := by decide
theorem test_wf_refuses_unassigned_of_assigned_E : (Instr.unassigned 0xE29E).wf = false := by decide
theorem test_wf_refuses_unassigned_of_assigned_F : (Instr.unassigned 0xF30A).wf = false := by decide
theorem test_wf_refuses_unassigned_of_other_family : (Instr.unassigned 0x6000).wf = false := by decide
theorem test_wf_accepts : (Instr.sys 0x0E1).wf = true ∧ (Instr.unassigned 0x8128).wf = true := by decide

/-! ### Decoding: words written bit by bit from the encodings of R73 -/

theorem test_decode_cls : decodeWord 0b0000_0000_1110_0000 = .cls := by decide
theorem test_decode_ret : decodeWord 0b0000_0000_1110_1110 = .ret := by decide
theorem test_decode_sys : decodeWord 0b0000_0001_0010_0011 = .sys 0x123 := by decide
theorem test_decode_jp : decodeWord 0b0001_0010_0100_1000 = .jp 0x248 := by decide
theorem test_decode_call : decodeWord 0b0010_0011_0000_0000 = .call 0x300 := by decide
theorem test_decode_seImm : decodeWord 0b0011_0011_0001_0000 = .seImm 3 0x10 := by decide
theorem test_decode_sneImm : decodeWord 0b0100_1010_0001_0000 = .sneImm 10 0x10 := by decide
theorem test_decode_seReg : decodeWord 0b0101_0001_0010_0111 = .seReg 1 2 0x7 := by decide
theorem test_decode_ldImm : decodeWord 0b0110_1010_0010_1111 = .ldImm 10 0x2F := by decide
theorem test_decode_addImm : decodeWord 0b0111_0001_0000_0010 = .addImm 1 0x02 := by decide
theorem test_decode_ldReg : decodeWord 0b1000_0001_0010_0000 = .ldReg 1 2 := by decide
theorem test_decode_orReg : decodeWord 0b1000_0001_0010_0001 = .orReg 1 2 := by decide
theorem test_decode_andReg : decodeWord 0b1000_0001_0010_0010 = .andReg 1 2 := by decide
theorem test_decode_xorReg : decodeWord 0b1000_0001_0010_0011 = .xorReg 1 2 := by decide
theorem test_decode_addReg : decodeWord 0b1000_0001_0010_0100 = .addReg 1 2 := by decide
theorem test_decode_subReg : decodeWord 0b1000_0001_0010_0101 = .subReg 1 2 := by decide
theorem test_decode_shr : decodeWord 0b1000_0001_0010_0110 = .shr 1 2 := by decide
theorem test_decode_subnReg : decodeWord 0b1000_0001_0010_0111 = .subnReg 1 2 := by decide
theorem test_decode_shl : decodeWord 0b1000_0001_0010_1110 = .shl 1 2 := by decide
theorem test_decode_sneReg : decodeWord 0b1001_0001_0010_1111 = .sneReg 1 2 0xF := by decide
theorem test_decode_ldI : decodeWord 0b1010_0010_0101_0000 = .ldI 0x250 := by decide
theorem test_decode_jpV0 : decodeWord 0b1011_0011_0000_0000 = .jpV0 0x300 := by decide
theorem test_decode_rnd : decodeWord 0b1100_0011_0000_1111 = .rnd 3 0x0F := by decide
theorem test_decode_drw : decodeWord 0b1101_0001_0010_0101 = .drw 1 2 0x5 := by decide
theorem test_decode_skp : decodeWord 0b1110_0010_1001_1110 = .skp 2 := by decide
theorem test_decode_sknp : decodeWord 0b1110_0010_1010_0001 = .sknp 2 := by decide
theorem test_decode_ldVxDT : decodeWord 0b1111_0101_0000_0111 = .ldVxDT 5 := by decide
theorem test_decode_ldVxK : decodeWord 0b1111_0011_0000_1010 = .ldVxK 3 := by decide
theorem test_decode_ldDTVx : decodeWord 0b1111_0101_0001_0101 = .ldDTVx 5 := by decide
theorem test_decode_ldSTVx : decodeWord 0b1111_0000_0001_1000 = .ldSTVx 0 := by decide
theorem test_decode_addI : decodeWord 0b1111_0000_0001_1110 = .addI 0 := by decide
theorem test_decode_ldF : decodeWord 0b1111_0100_0010_1001 = .ldF 4 := by decide
theorem test_decode_ldB : decodeWord 0b1111_1010_0011_0011 = .ldB 10 := by decide
theorem test_decode_stRegs : decodeWord 0b1111_0010_0101_0101 = .stRegs 2 := by decide
theorem test_decode_ldRegs : decodeWord 0b1111_0010_0110_0101 = .ldRegs 2 := by decide
theorem test_decode_unassigned : decodeWord 0b1000_0000_0000_1000 = .unassigned 0x8008 := by decide

theorem test_decode_bytes_high_first : decode [0x12, 0x48, 0xFF] = .ok (.jp 0x248, [0xFF]) := by decide
theorem test_decode_one_byte_is_truncated : decode [0x12] = .error .truncated ∧ decode [] = .error .truncated := by
  decide
theorem test_decodeTableWord_cls : decodeTableWord 16 0x00E0 = some .cls := by decide

/-! ### Small states -/

/-- After reset with a full-size program loaded, so that no `pc` below 0x1000 has ended; some registers set. -/
def st (regs : List (Reg × Byte)) (pc : Word := 0x200) (I : Word := 0) (cells : List Host.Cell := [])
    (stack : List Word := []) : State :=
  let s : State := { State.reset with PROG_LEN := 0xE00, LOADED := true, pc := pc, I := I, MEM := cells, stack := stack }
  regs.foldl (fun s r => s.setV r.1 r.2) s

/-- A field of the next state, if there is one. -/
def after {α : Type} (o : Outcome) (f : State → α) : Option α :=
  match o with
  | .next t => some (f t)
  | .fault _ => none
  | .refused _ => none

/-- The result of a host operation and a field of its next state. -/
def afterOp {α : Type} (o : OpOutcome) (f : State → α) : Option (HostResult × α) :=
  match o with
  | .next (r, t) => some (r, f t)
  | .fault _ => none
  | .refused _ => none

/-! ### Control (L2.1, L2.2) -/

-- J1, J5, J6, J8, J9
theorem test_jp : after (exec (.jp 0xABC) (st [])) (·.pc) = some 0x0ABC := by decide
theorem test_call : after (exec (.call 0x300) (st [] 0x204)) (fun t => (t.pc, t.stack)) = some (0x300, [0x206]) := by
  decide
theorem test_call_full : exec (.call 0x300) (st [] 0x200 0 [] (List.replicate 16 0x202)) =
    .next (st [] 0x200 0 [] (List.replicate 16 0x202)) := by rfl
theorem test_ret : after (exec .ret (st [] 0x300 0 [] [0x206])) (fun t => (t.pc, t.stack)) = some (0x206, []) := by
  decide
theorem test_ret_empty : exec .ret (st [] 0x300) = .next (st [] 0x300) := by rfl
-- J2, J4
theorem test_jpV0_not_masked : after (exec (.jpV0 0xFFF) (st [(0, 0xFF)])) (·.pc) = some 0x10FE := by decide
theorem test_jpV0_uses_V0 : after (exec (.jpV0 0x300) (st [(0, 0x04), (3, 0x99)])) (·.pc) = some 0x304 := by decide
-- J10, J11
theorem test_seImm_skips : after (exec (.seImm 3 0x10) (st [(3, 0x10)])) (·.pc) = some 0x204 := by decide
theorem test_seImm_goes_on : after (exec (.seImm 3 0x10) (st [(3, 0x11)])) (·.pc) = some 0x202 := by decide
-- J12, J13
theorem test_sneImm_goes_on : after (exec (.sneImm 3 0x10) (st [(3, 0x10)])) (·.pc) = some 0x202 := by decide
theorem test_sneImm_skips : after (exec (.sneImm 3 0x10) (st [(3, 0x11)])) (·.pc) = some 0x204 := by decide
-- J15, J16, J17
theorem test_seReg_ignores_nibble : after (exec (.seReg 1 2 7) (st [(1, 7), (2, 7)])) (·.pc) = some 0x204 := by decide
theorem test_sneReg_skips : after (exec (.sneReg 1 2 0) (st [(1, 7), (2, 8)])) (·.pc) = some 0x204 := by decide
theorem test_sneReg_ignores_nibble : after (exec (.sneReg 1 2 15) (st [(1, 7), (2, 7)])) (·.pc) = some 0x202 := by
  decide
-- F4, F2
theorem test_unassigned : after (exec (.unassigned 0x8008) (st [])) (·.pc) = some 0x202 := by decide
theorem test_sys : after (exec (.sys 0x000) (st [])) (·.pc) = some 0x202 := by decide
-- F7: an odd pc
theorem test_step_odd_pc : after (step (st [] 0x201 0 [(0x201, 0x61), (0x202, 0x23)]))
    (fun t => (t.readV 1, t.pc)) = some (0x23, 0x203) := by decide
-- F8: the low byte of the word at 0xFFF comes from 0x000, and the run ends
theorem test_step_wraps_fetch : after (step (st [] 0xFFF 0 [(0xFFF, 0x60)]))
    (fun t => (t.readV 0, t.pc, t.ended)) = some (0xF0, 0x1001, true) := by decide
-- F1: nothing loaded
theorem test_step_before_load : step State.reset = .next State.reset := by rfl

/-! ### ALU (L2.3) -/

-- A1, A2, A3
theorem test_ldImm : after (exec (.ldImm 10 0x2F) (st [])) (fun t => (t.readV 10, t.pc)) = some (0x2F, 0x202) := by
  decide
theorem test_addImm_no_flag : after (exec (.addImm 1 0x02) (st [(1, 0xFF)])) (fun t => (t.readV 1, t.readV 15)) =
    some (0x01, 0x00) := by decide
theorem test_addImm_vF : after (exec (.addImm 15 0x01) (st [(15, 0xFF)])) (·.readV 15) = some 0x00 := by decide
-- A4, A5, A6, A7
theorem test_ldReg : after (exec (.ldReg 1 2) (st [(2, 0x33)])) (fun t => (t.readV 1, t.readV 2)) =
    some (0x33, 0x33) := by decide
theorem test_orReg : after (exec (.orReg 0 1) (st [(0, 0x0F), (1, 0xF0), (15, 0x55)]))
    (fun t => (t.readV 0, t.readV 15)) = some (0xFF, 0x55) := by decide
theorem test_andReg : after (exec (.andReg 0 1) (st [(0, 0x3C), (1, 0x0F), (15, 0x55)]))
    (fun t => (t.readV 0, t.readV 15)) = some (0x0C, 0x55) := by decide
theorem test_xorReg : after (exec (.xorReg 0 1) (st [(0, 0xFF), (1, 0x0F)])) (·.readV 0) = some 0xF0 := by decide
-- W1, A12
theorem test_addReg : after (exec (.addReg 0 1) (st [(0, 0xFF), (1, 0x01)])) (fun t => (t.readV 0, t.readV 15)) =
    some (0x00, 0x01) := by decide
theorem test_addReg_vF : after (exec (.addReg 15 1) (st [(15, 0xFF), (1, 0x01)])) (·.readV 15) = some 0x01 := by decide
-- W2, A16
theorem test_subReg : after (exec (.subReg 0 1) (st [(0, 0x01), (1, 0x02)])) (fun t => (t.readV 0, t.readV 15)) =
    some (0xFF, 0x00) := by decide
theorem test_subReg_vF : after (exec (.subReg 15 0) (st [(15, 0x05), (0, 0x07)])) (·.readV 15) = some 0x00 := by decide
-- A22, A24
theorem test_subnReg : after (exec (.subnReg 0 1) (st [(0, 0x02), (1, 0x01)])) (fun t => (t.readV 0, t.readV 15)) =
    some (0xFF, 0x00) := by decide
theorem test_subnReg_equal : after (exec (.subnReg 0 1) (st [(0, 0x09), (1, 0x09)]))
    (fun t => (t.readV 0, t.readV 15)) = some (0x00, 0x01) := by decide
-- A20, A21
theorem test_shr_ignores_y : after (exec (.shr 0 1) (st [(0, 0x04), (1, 0xFF)])) (fun t => (t.readV 0, t.readV 15)) =
    some (0x02, 0x00) := by decide
theorem test_shr_vF : after (exec (.shr 15 0) (st [(15, 0x03)])) (·.readV 15) = some 0x01 := by decide
-- A25, A28
theorem test_shl : after (exec (.shl 0 0) (st [(0, 0x81)])) (fun t => (t.readV 0, t.readV 15)) =
    some (0x02, 0x01) := by decide
theorem test_shl_ignores_y : after (exec (.shl 0 1) (st [(0, 0x01), (1, 0x80)])) (fun t => (t.readV 0, t.readV 15)) =
    some (0x02, 0x00) := by decide
-- A29, A30
theorem test_rnd_masks : afterOp (stepWith 0xA5 (st [] 0x200 0 [(0x200, 0xC3), (0x201, 0x0F)])) (·.readV 3) =
    some (.stepped .continued, 0x05) := by decide
theorem test_rnd_zero_mask : after (exec (.rnd 3 0x00) (st [])) (·.pc) = some 0x202 := by decide

/-! ### Display (L2.4) -/

-- D2
theorem test_cls : after (exec .cls (st [])) (fun t => (pixelOf t.FB 63 31, t.DIRTY, t.pc)) =
    some (false, true, 0x202) := by decide
-- D6: wrap at the right edge
theorem test_drw_wraps : after (exec (.drw 0 1 1) (st [(0, 0x3C)] 0x200 0x300 [(0x300, 0xFF)]))
    (fun t => (pixelOf t.FB 60 0, pixelOf t.FB 63 0, pixelOf t.FB 0 0, pixelOf t.FB 3 0, pixelOf t.FB 4 0, t.readV 15)) =
    some (true, true, true, true, false, 0x00) := by decide
-- D8: collision
theorem test_drw_collides : after (exec (.drw 0 1 1)
    ((st [] 0x200 0x300 [(0x300, 0x80)]).setFB (flipPixel blankScreen 0 0)))
    (fun t => (pixelOf t.FB 0 0, t.readV 15, t.DIRTY)) = some (false, 0x01, true) := by decide

/-! ### Keypad (L2.5) -/

-- K1, K3
theorem test_ldVxK_waits : exec (.ldVxK 3) (st []) = .next (st []) := by rfl
theorem test_ldVxK_lowest : after (exec (.ldVxK 3) (((st []).setKEY 9 true).setKEY 3 true))
    (fun t => (t.readV 3, t.pc)) = some (0x03, 0x202) := by decide
-- K5, K9
theorem test_skp_down : after (exec (.skp 2) ((st [(2, 5)]).setKEY 5 true)) (·.pc) = some 0x204 := by decide
theorem test_skp_above_F : after (exec (.skp 2) ((st [(2, 0x13)]).setKEY 3 true)) (·.pc) = some 0x202 := by decide
-- K7, K10
theorem test_sknp_down : after (exec (.sknp 2) ((st [(2, 5)]).setKEY 5 true)) (·.pc) = some 0x202 := by decide
theorem test_sknp_above_F : after (exec (.sknp 2) ((st [(2, 0x13)]).setKEY 3 true)) (·.pc) = some 0x204 := by decide
-- K11, K12
theorem test_keyDown_above_F : afterOp (applyOp (.keyDown 0x10) (st [])) (·.KEY[15]) = some (.invalidKey, false) := by
  decide
theorem test_keyDown_F : afterOp (applyOp (.keyDown 0xF) (st [])) (·.KEY[15]) = some (.ok, true) := by decide
theorem test_keyUp_F : afterOp (applyOp (.keyUp 0xF) ((st []).setKEY 15 true)) (·.KEY[15]) = some (.ok, false) := by
  decide

/-! ### Memory transfer (L2.6) -/

-- M1, M2, M3
theorem test_ldI : after (exec (.ldI 0x250) (st [])) (·.I) = some 0x0250 := by decide
theorem test_addI_keeps_sum : after (exec (.addI 0) (st [(0, 0x02), (15, 0x07)] 0x200 0xFFF))
    (fun t => (t.I, t.readV 15)) = some (0x1001, 0x07) := by decide
theorem test_addI_wraps : after (exec (.addI 0) (st [(0, 0x01)] 0x200 0xFFFF)) (·.I) = some 0x0000 := by decide
-- M5, M7
theorem test_ldF : after (exec (.ldF 4) (st [(4, 0x0F)])) (·.I) = some 0x004B := by decide
theorem test_ldF_not_reduced : after (exec (.ldF 4) (st [(4, 0xFF)])) (·.I) = some 0x04FB := by decide
-- M8, M12
theorem test_ldB : after (exec (.ldB 0) (st [(0, 0xFE)] 0x200 0x300))
    (fun t => (t.readByte 0x300, t.readByte 0x301, t.readByte 0x302)) = some (0x02, 0x05, 0x04) := by decide
theorem test_ldB_wraps : after (exec (.ldB 0) (st [(0, 0x7B)] 0x200 0xFFF))
    (fun t => (t.readByte 0xFFF, t.readByte 0x000, t.readByte 0x001)) = some (0x01, 0x02, 0x03) := by decide
-- M13, M18
theorem test_stRegs : after (exec (.stRegs 2) (st [(0, 1), (1, 2), (2, 3), (3, 9)] 0x200 0x300))
    (fun t => (t.readByte 0x300, t.readByte 0x302, t.readByte 0x303, t.I)) = some (0x01, 0x03, 0x00, 0x300) := by decide
theorem test_stRegs_wraps : after (exec (.stRegs 3) (st [(0, 1), (1, 2), (2, 3), (3, 4)] 0x200 0xFFE))
    (fun t => (t.readByte 0xFFE, t.readByte 0xFFF, t.readByte 0x000, t.readByte 0x001)) =
    some (0x01, 0x02, 0x03, 0x04) := by decide
-- M16
theorem test_ldRegs : after (exec (.ldRegs 1) (st [(2, 0x77)] 0x200 0x300
    [(0x300, 0x0A), (0x301, 0x0B), (0x302, 0x0C)]))
    (fun t => (t.readV 0, t.readV 1, t.readV 2, t.I)) = some (0x0A, 0x0B, 0x77, 0x300) := by decide

/-! ### Timers and host (L2.7, L2.8) -/

-- T4, T5, T6
theorem test_ldVxDT : after (exec (.ldVxDT 5) ((st []).setDT 0x3C)) (·.readV 5) = some 0x3C := by decide
theorem test_ldDTVx : after (exec (.ldDTVx 5) (st [(5, 0x3C)])) (fun t => (t.DT, t.ST)) = some (0x3C, 0x00) := by decide
theorem test_ldSTVx : after (exec (.ldSTVx 0) (st [(0, 0x05)])) (fun t => (t.DT, t.ST)) = some (0x00, 0x05) := by decide
-- T2
theorem test_tick_clamps : afterOp (applyOp .tickTimers ((st []).setDT 0x01)) (fun t => (t.DT, t.ST)) =
    some (.ok, 0x00, 0x00) := by decide
-- W8 (its first step), H4, H3
theorem test_load_then_step : afterOp (applyOp (.step 0) (loadProgram [0x60, 0x01] State.reset).2)
    (fun t => (t.readV 0, t.pc)) = some (.stepped .programEnded, 0x01, 0x202) := by decide
theorem test_load_empty : afterOp (applyOp (.step 0) (loadProgram [] State.reset).2) (·.pc) =
    some (.stepped .programEnded, 0x200) := by decide
theorem test_second_load : afterOp (applyOp (.loadProgram [0x12, 0x00]) (st [])) (·.PROG_LEN) =
    some (.loadError, 0xE00) := by decide
-- K1 as the host sees it
theorem test_step_awaits_key : afterOp (stepWith 0 (st [] 0x200 0 [(0x200, 0xF3), (0x201, 0x0A)])) (·.pc) =
    some (.stepped .awaitingKey, 0x200) := by decide

/-! ### The parameters, and how the host's tools place a word -/

theorem test_font_fits_below_program : fontData.length = 80 ∧ fontBase + 80 ≤ 0x200 := by decide
theorem test_font_glyph_A : State.reset.readByte 0x032 = 0xF0 ∧ State.reset.readByte 0x033 = 0x90 := by decide
/-- Other parameters: a stack of one entry, the font at 0x050, and every font byte 0xAA. -/
def other : Params := { stackDepth := 1, fontBase := 0x50, fontData := Vector.replicate 80 0xAA }

-- R28, R104: the second call fails
theorem test_other_stack_depth : execAt other (.call 0x300) (st [] 0x200 0 [] [0x202]) =
    .next (st [] 0x200 0 [] [0x202]) := by rfl
-- R202, R31
theorem test_other_font_base : after (execAt other (.ldF 4) (st [(4, 0x01)])) (·.I) = some 0x0055 := by decide
theorem test_other_font_data : after (execAt other (.ldRegs 1) (st [] 0x200 0x09F)) (fun t => (t.readV 0, t.readV 1)) =
    some (0xAA, 0x00) := by decide
theorem test_withFetchWord_runs : after (step (State.reset.withFetchWord 16 0x6A2F)) (fun t => (t.readV 10, t.pc)) =
    some (0x2F, 0x202) := by decide
theorem test_withFetchWord_high_pc : ((State.reset.setPc 0x1234).withFetchWord 16 0x6A2F).fetchInstr = .ldImm 10 0x2F ∧
    ((State.reset.setPc 0x1234).withFetchWord 16 0x6A2F).ended = false := by decide

/-! ### Witnesses: for each statement with hypotheses, states and operands that meet them -/

/-- A loaded program whose first word is `w`. -/
def code (w : Word) (stack : List Word := []) : State :=
  st [] 0x200 0 (Memory.writeBytes [] 0x200 (bytesOfWord w)) stack

theorem witness_DecodeInvertsEncode : (Instr.sys 0xFFF).wf = true ∧ (Instr.unassigned 0xFFFF).wf = true ∧
    (Instr.drw 15 15 15).wf = true := by decide
theorem witness_DecodePicksMostSpecificRow : (0xF000, 0x0000) ∈ opcodeRows ∧ rowMatches 0x00E0 (0xF000, 0x0000) = true ∧
    (0xF000, 0x0000) ≠ rowOf (decodeWord 0x00E0) := by decide
theorem witness_FamilyZeroRecognisesTwoWords : (0x0FFF : Word).toNat ≤ 0x0FFF ∧ (0x0FFF : Word) ≠ 0x00E0 ∧
    (0x0FFF : Word) ≠ 0x00EE ∧ decodeWord 0x0000 = .sys 0x000 ∧ decodeWord 0x0FFF = .sys 0xFFF := by decide
-- R80 at the ends of its ranges, and the assigned words beside them
theorem witness_UnassignedWordsAdvance : decodeWord 0x800D = .unassigned 0x800D ∧ decodeWord 0x8FFF = .unassigned 0x8FFF ∧
    decodeWord 0xE000 = .unassigned 0xE000 ∧ decodeWord 0xE09F = .unassigned 0xE09F ∧
    decodeWord 0xFFFF = .unassigned 0xFFFF ∧ decodeWord 0x800E = .shl 0 0 ∧ decodeWord 0xFF07 = .ldVxDT 15 := by decide
theorem witness_StepRunsDecodedInstruction :
    let s : State := { code 0x6001 with PROG_LEN := 1 }
    s.pc.toNat < 0x200 + s.PROG_LEN ∧ (Instr.ldImm 0 1).wf = true ∧
      decode [s.readByte s.pc.toNat, s.readByte (s.pc.toNat + 1)] = .ok (.ldImm 0 1, []) := by decide
theorem witness_StepAtProgramEndWritesNothing :
    0x200 + State.reset.PROG_LEN ≤ State.reset.pc.toNat ∧ 0x200 + (code 0).PROG_LEN ≤ ((code 0).setPc 0x1000).pc.toNat := by
  decide
theorem witness_StepResult_wait : (code 0xF30A).pc.toNat < 0x200 + (code 0xF30A).PROG_LEN ∧
    (code 0xF30A).fetchInstr = .ldVxK 3 ∧ ∀ k : Fin 16, (code 0xF30A).KEY[k.val] = false := by decide
theorem witness_StepResult_keyDown : ((code 0xF30A).setKEY 15 true).fetchInstr = .ldVxK 3 ∧
    ((code 0xF30A).setKEY 15 true).KEY[15] = true := by decide
theorem witness_StepResult_failed :
    (code 0x2300 (List.replicate 16 0x202)).pc.toNat < 0x200 + (code 0x2300 (List.replicate 16 0x202)).PROG_LEN ∧
    (code 0x2300 (List.replicate 16 0x202)).fetchInstr = .call 0x300 ∧
    stackDepth ≤ (code 0x2300 (List.replicate 16 0x202)).stack.length ∧
    (code 0x00EE).pc.toNat < 0x200 + (code 0x00EE).PROG_LEN ∧ (code 0x00EE).fetchInstr = .ret ∧
    (code 0x00EE).stack = [] := by decide
theorem witness_StepResult_other : (code 0x1FFF).fetchInstr = .jp 0xFFF ∧ ∀ x, (code 0x1FFF).fetchInstr ≠ .ldVxK x := by
  decide
theorem witness_OnlyRnd_rnd : (code 0xC30F).fetchInstr = .rnd 3 0x0F ∧
    ∃ r t, stepWith 0xA5 (code 0xC30F) = .next (r, t) := ⟨by decide, _, _, rfl⟩
theorem witness_OnlyRnd_other : (∀ x nn, (code 0x1300).fetchInstr ≠ .rnd x nn) ∧
    ∃ r t, stepWith 0xA5 (code 0x1300) = .next (r, t) :=
  ⟨(show (code 0x1300).fetchInstr = .jp 0x300 by decide) ▸ fun _ _ => Instr.noConfusion, _, _, rfl⟩
theorem witness_SequentialRunReachesProgramEnd : (code 0x6001).PROG_LEN ≤ 0xE00 ∧
    ∃ t, SequentialRun 1 (code 0x6001) t := ⟨by decide, _, by decide, by decide, _, rfl, rfl⟩
-- W8 at its boundary: programs of 2 and 3 bytes, ended after (L + 1) / 2 steps and not one before
theorem witness_SequentialRun_ends : ∃ t, SequentialRun 1 ({ code 0x6001 with PROG_LEN := 2 }) t ∧ t.ended = true ∧
    (2 + 1) / 2 ≤ 1 := ⟨_, ⟨by decide, by decide, _, rfl, rfl⟩, by decide, by decide⟩
theorem witness_SequentialRun_goes_on : ∃ t, SequentialRun 1 ({ code 0x6001 with PROG_LEN := 3 }) t ∧
    t.ended = false ∧ ∃ u, SequentialRun 2 ({ code 0x6001 with PROG_LEN := 3 }) u ∧ u.ended = true ∧ (3 + 1) / 2 ≤ 2 :=
  ⟨_, ⟨by decide, by decide, _, rfl, rfl⟩, by decide, _, ⟨by decide, by decide, _, rfl, by decide, by decide, _, rfl, rfl⟩,
    by decide, by decide⟩
theorem witness_PcNeverWrapsWhileRunning : (st [] 0xFFF).PROG_LEN ≤ 0xE00 ∧ (st [] 0xFFF).ended = false ∧
    (st [] 0x1000).PROG_LEN ≤ 0xE00 ∧ 0x1000 ≤ (st [] 0x1000).pc.toNat := by decide
theorem witness_StoredInstructionIsFetchedNext : 1 ≤ (1 : Reg).val ∧
    (st [] 0xFFE 0x1000).I.toNat % 4096 = ((st [] 0xFFE 0x1000).pc.toNat + 2) % 4096 := by decide
theorem witness_ResetLeavesConstructionValues : 79 < 4096 ∧ (fontBase ≤ 79 ∧ 79 < fontBase + 80) ∧
    0xFFF < 4096 ∧ ¬ (fontBase ≤ 80 ∧ 80 < fontBase + 80) := by decide
theorem witness_StepKeepsInvariant : (code 0x6001).Inv ∧ ∃ t, step (code 0x6001) = .next t := ⟨by decide, _, rfl⟩
theorem witness_EveryHostRunIsSafe : (code 0x2200 (List.replicate 16 0x202)).Inv := by decide
theorem witness_ProgramEndIsTerminal :
    let s := (loadProgram [] State.reset).2
    s.LOADED = true ∧ s.ended = true ∧ ∃ t, runOps [.tickTimers, .step 0, .keyDown 3, .clearDirty] s = .next t :=
  ⟨rfl, by decide, _, rfl⟩
theorem witness_HostCannotTouchProgramState : (∀ rnd, HostOp.loadProgram [1] ≠ .step rnd) ∧ (st []).LOADED = true ∧
    (∃ r t, applyOp (.loadProgram [1]) (st []) = .next (r, t)) ∧
    ∃ r t, applyOp (.loadProgram [1]) State.reset = .next (r, t) :=
  ⟨fun _ h => (by cases h), rfl, ⟨_, _, rfl⟩, _, _, rfl⟩
theorem witness_EveryInstructionKeepsItsFrame : ∃ t, exec (.ldB 0) (st []) = .next t := ⟨_, rfl⟩
theorem witness_Writers_I : ∃ t, exec (.ldI 0x250) (st []) = .next t ∧ t.I ≠ (st []).I := ⟨_, rfl, by decide⟩
theorem witness_Writers_stack : ∃ t, exec (.call 0x300) (st []) = .next t ∧ t.stack ≠ (st []).stack :=
  ⟨_, rfl, by decide⟩
theorem witness_Writers_timers : (∃ t, exec (.ldDTVx 0) (st [(0, 1)]) = .next t ∧ t.DT ≠ (st [(0, 1)]).DT) ∧
    ∃ t, exec (.ldSTVx 0) (st [(0, 1)]) = .next t ∧ t.ST ≠ (st [(0, 1)]).ST := ⟨⟨_, rfl, by decide⟩, _, rfl, by decide⟩
theorem witness_Writers_memory : ∃ t, exec (.ldB 0) (st [(0, 200)] 0x200 0x300) = .next t ∧
    t.readByte 0x300 ≠ (st [(0, 200)] 0x200 0x300).readByte 0x300 := ⟨_, rfl, by decide⟩
theorem witness_Writers_screen : ∃ t, exec .cls ((st []).setFB (flipPixel blankScreen 0 0)) = .next t ∧
    pixelOf t.FB 0 0 ≠ pixelOf (flipPixel blankScreen 0 0) 0 0 ∧ t.DIRTY ≠ (st []).DIRTY :=
  ⟨_, rfl, by decide, by decide⟩
theorem witness_JumpSetsPcToAddress : 0x200 + State.reset.PROG_LEN ≤ (0x200 : Addr12).toNat ∧
    (code 0x1200).ended = false ∧ (code 0x1200).fetchInstr = .jp 0x200 ∧
    (code 0x1200).pc.toNat = (0x200 : Addr12).toNat := by decide
theorem witness_JumpV0AddsWithoutMask : (st [(0, 1)]).PROG_LEN ≤ 0xE00 ∧
    0x1000 ≤ (0xFFF : Addr12).toNat + ((st [(0, 1)]).readV 0).toNat := by decide
theorem witness_CallPushesNextAddress : (st [] 0x200 0 [] (List.replicate 15 0x202)).stack.length < stackDepth := by
  decide
theorem witness_CallOnFullStackHangs : stackDepth ≤ (code 0x2300 (List.replicate 16 0x202)).stack.length ∧
    (code 0x2300 (List.replicate 16 0x202)).fetchInstr = .call 0x300 := by decide
theorem witness_ReturnPopsNewestEntry : (code 0x00EE [0x1000, 0x206]).stack = 0x1000 :: [0x206] ∧
    0x200 + (code 0x00EE [0x1000]).PROG_LEN ≤ (0x1000 : Word).toNat ∧ (code 0x00EE).stack = [] := by decide
theorem witness_ReturnOnEmptyStackHangs : (code 0x00EE).stack = [] ∧ (code 0x00EE).fetchInstr = .ret := by decide
theorem witness_CallThenReturnRestores : (st []).stack.length < stackDepth ∧
    ∃ t, exec (.call 0x300) (st []) = .next t ∧ (t.setV 3 7).stack = t.stack := ⟨by decide, _, rfl, rfl⟩
theorem witness_RegisterCopy_same : after (exec (.ldReg 3 3) (st [(3, 7)])) (fun t => (t.readV 3, t.pc)) =
    some (7, 0x202) := by decide
theorem witness_flag_apart : (0 : Reg) ≠ vF ∧ (14 : Reg) ≠ vF := by decide
theorem witness_RandomByteIsMasked : (code 0xC30F).pc.toNat < 0x200 + (code 0xC30F).PROG_LEN ∧
    (code 0xC30F).fetchInstr = .rnd 3 0x0F := by decide

/-- A one-row sprite at (60, 0), with bits 7 and 0 set. -/
def sprite : State := st [(0, 60)] 0x200 0x300 [(0x300, 0x81)]

theorem witness_Draw_covered : SpriteCovers sprite 0 1 1 60 0 ∧ SpriteCovers sprite 0 1 1 3 0 :=
  ⟨⟨0, by decide, 0, by decide, by decide, by decide, by decide⟩, 0, by decide, 7, by decide, by decide, by decide, by decide⟩
theorem witness_Draw_not_covered : ¬ SpriteCovers sprite 0 1 1 61 0 ∧ ¬ SpriteCovers sprite 0 1 0 60 0 := by
  unfold SpriteCovers; decide
theorem witness_Draw_hit : SpriteCovers (sprite.setFB (flipPixel blankScreen 60 0)) 0 1 1 60 0 ∧
    pixelOf (sprite.setFB (flipPixel blankScreen 60 0)).FB 60 0 = true :=
  ⟨⟨0, by decide, 0, by decide, by decide, by decide, by decide⟩, by decide⟩
theorem witness_Draw_no_hit : ∀ px py, SpriteCovers sprite 0 1 1 px py → pixelOf sprite.FB px py = false :=
  fun px py _ => pixelOf_blankScreen px py
theorem witness_DrawingTwiceCancels : ∃ t, exec (.drw 0 1 1) sprite = .next t ∧ t.readV 0 = sprite.readV 0 ∧
    t.readV 1 = sprite.readV 1 := ⟨_, rfl, by decide, by decide⟩
theorem witness_KeyWaitWritesNothing : (∀ k : Fin 16, (code 0xFF0A).KEY[k.val] = false) ∧
    (code 0xFF0A).fetchInstr = .ldVxK 15 := by decide
theorem witness_KeyWaitTakesLowestKey :
    let s := ((st []).setKEY 15 true)
    s.KEY[(15 : Fin 16).val] = true ∧ (∀ j : Fin 16, j < 15 → s.KEY[j.val] = false) ∧
    (s.setKEY 0 true).KEY[(0 : Fin 16).val] = true ∧ ∀ j : Fin 16, j < 0 → (s.setKEY 0 true).KEY[j.val] = false := by decide
theorem witness_KeySkipsTestOneKey : ((st [(2, 15)]).readV 2).toNat = (15 : Fin 16).val ∧
    0xF < ((st [(2, 16)]).readV 2).toNat := by decide
theorem witness_RegistersStored_Loaded : (15 : Reg) ≤ 15 ∧ (0 : Reg) ≤ 0 := by decide
theorem witness_StoreThenLoadRestoresRegisters : ∃ t, exec (.stRegs 3) (st [(0, 1)] 0x200 0x300) = .next t ∧
    (1 : Reg) ≤ 3 ∧ (t.setV 0 9).MEM = t.MEM ∧ (t.setV 0 9).I = t.I := ⟨_, rfl, by decide, rfl, rfl⟩
theorem witness_KeyEventsWriteOneKey : 15 = (15 : Fin 16).val ∧ 0xF < 16 := by decide
theorem witness_LoadProgramCopiesImageOnce : State.reset.LOADED = false ∧
    (List.replicate 0xE00 (0 : Byte)).length ≤ 0xE00 ∧ (st []).LOADED = true ∧
    0xE00 < (List.replicate 0xE01 (0 : Byte)).length := by
  refine ⟨rfl, ?_, rfl, ?_⟩ <;> rw [List.length_replicate]
  exact Nat.lt_succ_self _

end Sys2Proof.Tests
end

section
/-! SUPPORT. Family 0 of the opcode map (30_encoding.md R75): which words it holds, what each decodes to, and the frame
of an instruction that only goes on to the next word. -/

namespace Sys2Proof

/-! ### The words of family 0 -/

theorem toNat_fieldNNN (w : Word) : (fieldNNN w).toNat = w.toNat % 4096 :=
  BitVec.extractLsb'_toNat 0 12 w

theorem toNat_fieldO (w : Word) : (fieldO w).toNat = w.toNat / 4096 := by
  rw [fieldO, BitVec.extractLsb'_toNat, Nat.shiftRight_eq_div_pow]
  exact Nat.mod_eq_of_lt (Nat.div_lt_of_lt_mul w.isLt)

/-- Family 0 is the words 0x0000 to 0x0FFF. -/
theorem fieldO_eq_zero_iff (w : Word) : fieldO w = 0#4 ↔ w.toNat ≤ 0x0FFF := by
  rw [← BitVec.toNat_inj, toNat_fieldO, BitVec.toNat_ofNat]
  omega

theorem decodeWord_family0 (w : Word) (h : fieldO w = 0#4) : decodeWord w = decodeFamily0 w := by
  simp only [decodeWord, h]

/-- A word of family 0 other than the two literal ones is SYS with the address part of the word. -/
theorem decodeWord_sys (w : Word) (h : w.toNat ≤ 0x0FFF) (hcls : w ≠ 0x00E0) (hret : w ≠ 0x00EE) :
    decodeWord w = .sys (fieldNNN w) := by
  rw [decodeWord_family0 w ((fieldO_eq_zero_iff w).2 h), decodeFamily0, if_neg hcls, if_neg hret]

namespace Machine

/-- Going on to the next word writes `pc` alone. -/
theorem changesOnly_advance (s : State) : ChangesOnly (among [.pc]) s s.advance := by
  intro part hpart
  cases part
  case pc => exact absurd (List.mem_singleton.2 rfl) hpart
  all_goals rfl

/-! ### The statement of R75 -/

/-- Settles O5: the two literal words by evaluation, every other word of family 0 by its second-level dispatch. -/
theorem familyZeroRecognisesTwoWords : Obligations.FamilyZeroRecognisesTwoWords := by
  unfold Obligations.FamilyZeroRecognisesTwoWords
  refine ⟨by decide, by decide, fun w hw hcls hret => ?_⟩
  have hdecode : decodeWord w = .sys (fieldNNN w) := decodeWord_sys w hw hcls hret
  have hnnn : (fieldNNN w).toNat = w.toNat := by
    rw [toNat_fieldNNN, Nat.mod_eq_of_lt (Nat.lt_succ_of_le hw)]
  refine ⟨⟨fieldNNN w, hnnn, hdecode⟩, fun s => ⟨s.advance, ?_, State.advance_pc s, changesOnly_advance s⟩⟩
  rw [hdecode, exec_sys]

end Machine

end Sys2Proof
end

section
/-! SUPPORT. The two jumps and SYS (40_fetch_control.md R107, R108, R113): the frame of a write to `pc`, where a jump
lands, when it ends the run, and the jump to itself. -/

namespace Sys2Proof.Machine

/-! ### Writing `pc` -/

/-- A write to `pc` changes `pc` alone. -/
theorem changesOnly_setPc (s : State) (w : Word) : ChangesOnly (among [.pc]) s (s.setPc w) := by
  intro part hpart
  cases part
  case pc => exact absurd (List.mem_singleton.2 rfl) hpart
  all_goals rfl

theorem State.setPc_self (s : State) : s.setPc s.pc = s := rfl

/-- `pc` at or past PROG_END is the end of the run: the program's length is not touched by the write. -/
theorem ended_setPc_iff (s : State) (w : Word) : (s.setPc w).ended = true ↔ 0x200 + s.PROG_LEN ≤ w.toNat :=
  ended_iff (s.setPc w)

/-! ### The targets -/

/-- The target of JP is NNN itself: extending an address to 16 bits keeps its value. -/
theorem toNat_jumpTarget (nnn : Addr12) : (nnn.setWidth 16).toNat = nnn.toNat :=
  BitVec.toNat_setWidth_of_le (by decide)

/-- The target of JP V0 is the plain sum: at most 0xFFF + 0xFF, it does not wrap at 16 bits. -/
theorem toNat_jumpV0Target (nnn : Addr12) (b : Byte) :
    (nnn.setWidth 16 + b.setWidth 16 : Word).toNat = nnn.toNat + b.toNat := by
  have hb : (b.setWidth 16).toNat = b.toNat := BitVec.toNat_setWidth_of_le (by decide)
  rw [BitVec.toNat_add, toNat_jumpTarget, hb]
  have := nnn.isLt
  have := b.isLt
  omega

/-! ### The jump to itself -/

theorem stepWith_jp (rnd : Byte) (s : State) (nnn : Addr12) (hrun : s.ended = false) (hf : s.fetchInstr = .jp nnn) :
    stepWith rnd s = finishStep (.next (s.setPc (nnn.setWidth 16))) := by
  rw [stepWith_else rnd s hrun (by simp [hf]) (by simp [hf]), hf, exec_jp]

/-- A running state whose instruction jumps to its own address is left as it is. -/
theorem stepWith_selfJump (rnd : Byte) (s : State) (nnn : Addr12) (hrun : s.ended = false)
    (hf : s.fetchInstr = .jp nnn) (hpc : s.pc.toNat = nnn.toNat) :
    stepWith rnd s = .next (.stepped .continued, s) := by
  have htarget : nnn.setWidth 16 = s.pc := BitVec.eq_of_toNat_eq ((toNat_jumpTarget nnn).trans hpc.symm)
  rw [stepWith_jp rnd s nnn hrun hf, htarget, State.setPc_self, finishStep, resultAfter, hrun]
  rfl

/-! ### The statements of R107, R108 and R113 -/

/-- Settles O26: JP is one write to `pc`, and its target at the instruction's own address writes back what is there. -/
theorem jumpSetsPcToAddress : Obligations.JumpSetsPcToAddress := by
  unfold Obligations.JumpSetsPcToAddress
  intro nnn s
  refine ⟨s.setPc (nnn.setWidth 16), exec_jp nnn s, toNat_jumpTarget nnn, changesOnly_setPc s _, fun hend => ?_,
    fun hrun hf hpc rnd => stepWith_selfJump rnd s nnn hrun hf hpc⟩
  rwa [ended_setPc_iff, toNat_jumpTarget]

/-- Settles O27: the 16-bit sum does not wrap, and a target of 0x1000 or more is past the end of every program, which
has at most 0xE00 bytes. -/
theorem jumpV0AddsWithoutMask : Obligations.JumpV0AddsWithoutMask := by
  unfold Obligations.JumpV0AddsWithoutMask
  intro nnn s
  refine ⟨s.setPc (nnn.setWidth 16 + (s.readV 0).setWidth 16), exec_jpV0 nnn s, toNat_jumpV0Target nnn (s.readV 0),
    changesOnly_setPc s _, fun hlen htarget => ?_⟩
  rw [ended_setPc_iff, toNat_jumpV0Target]
  omega

/-- Settles O35: SYS is the default advance, whatever its address. -/
theorem sysOnlyAdvances : Obligations.SysOnlyAdvances := by
  unfold Obligations.SysOnlyAdvances
  exact fun nnn s => ⟨s.advance, exec_sys nnn s, State.advance_pc s, changesOnly_advance s⟩

end Sys2Proof.Machine
end

section
/-! SUPPORT. The register copy (41_register_alu.md R134): the frame of an instruction that writes one register and goes
on to the next word, and a register written with its own value. -/

namespace Sys2Proof.Machine

/-- Writing a register with the value it holds writes nothing. -/
@[simp] theorem State.setV_readV_self (s : State) (k : Reg) : s.setV k (s.readV k) = s := by
  rw [setV, readV, Vector.set_getElem_self]

/-- Writing one register and going on to the next word changes that register and `pc` alone. -/
theorem changesOnly_setV_advance (s : State) (k : Reg) (b : Byte) :
    ChangesOnly (among [.v k, .pc]) s (s.setV k b).advance := by
  intro part hpart
  cases part
  case v j =>
    have hne : j ≠ k := fun h => hpart (h ▸ List.mem_cons_self)
    exact (State.readV_setV s k b j).trans (if_neg hne)
  case pc => exact absurd (List.mem_cons_of_mem _ List.mem_cons_self) hpart
  all_goals rfl

/-- Settles O37: one register write and the default advance; with `x = y` the write is of the value already there. -/
theorem registerCopy : Obligations.RegisterCopy := by
  unfold Obligations.RegisterCopy
  intro x y s
  refine ⟨(s.setV x (s.readV y)).advance, exec_ldReg x y s, ?_, State.advance_pc _,
    changesOnly_setV_advance s x (s.readV y), ?_⟩
  · exact (State.readV_setV s x (s.readV y) x).trans (if_pos rfl)
  · rintro rfl
    rw [State.setV_readV_self]
    exact changesOnly_advance s

end Sys2Proof.Machine
end

section
/-! SUPPORT. The address register and the decimal digits (44_memory_transfer.md R201 to R203): the frames of a write to
`I` and of a store at `I`, what a read through `I` sees after the store, and the values of the two `I` writes and of the
digits. -/

namespace Sys2Proof.Machine

/-! ### Writing `I` -/

/-- Writing `I` and going on to the next word changes `I` and `pc` alone. -/
theorem changesOnly_setI_advance (s : State) (w : Word) : ChangesOnly (among [.i, .pc]) s (s.setI w).advance := by
  intro part hpart
  cases part
  case i => exact absurd List.mem_cons_self hpart
  case pc => exact absurd (List.mem_cons_of_mem _ List.mem_cons_self) hpart
  all_goals rfl

/-- The sum of a word and a byte is reduced at 16 bits only. -/
theorem toNat_add_setWidth_byte (w : Word) (b : Byte) : (w + b.setWidth 16).toNat = (w.toNat + b.toNat) % 65536 := by
  rw [BitVec.toNat_add, BitVec.toNat_setWidth_of_le (by decide)]

theorem toNat_glyphAddress (v : Byte) (base : Nat) : (glyphAddress v base).toNat = (base + 5 * v.toNat) % 65536 :=
  BitVec.toNat_ofNat _ _

/-! ### Storing at `I` -/

/-- A store at `I` that goes on to the next word changes the bytes it stores at and `pc` alone: a byte at none of the
store's addresses reads as before. -/
theorem changesOnly_writeBytes_advance (s : State) (bs : List Byte) :
    ChangesOnly (pcOrBytesAtI s bs.length) s (s.setMEM (Memory.writeBytes s.MEM s.I.toNat bs)).advance := by
  intro part hpart
  cases part
  case mem a =>
    exact Memory.read_writeBytes_outside bs s.MEM s.I.toNat a fun k hk haddr => hpart ⟨k, hk, haddr⟩
  case pc => exact absurd trivial hpart
  all_goals rfl

/-- A read goes by the low 12 bits of its address (20_memory.md R52). -/
@[simp] theorem State.readByte_addr (s : State) (a : Nat) (p : Params) :
    s.readByte (Memory.addr a) p = s.readByte a p := by
  rw [readByte, readByte, Memory.read, Memory.read, Memory.addr_addr]

/-- After a store at `I`, element `k` is the `k`-th byte stored, if the store does not run into itself. -/
theorem readByte_elementAddr_writeBytes (s : State) (bs : List Byte) (hlen : bs.length ≤ 4096) (k : Nat)
    (hk : k < bs.length) :
    (s.setMEM (Memory.writeBytes s.MEM s.I.toNat bs)).advance.readByte (s.elementAddr k) = bs[k] := by
  rw [State.elementAddr, State.readByte_addr]
  exact Memory.read_writeBytes_inside bs s.MEM s.I.toNat k hk hlen

/-! ### The decimal digits -/

/-- The three digits as naturals: each is below 256, so none is cut off in its byte. -/
theorem toNat_bcdDigits (v : Byte) :
    (bcdDigits v)[0].toNat = v.toNat / 100 ∧ (bcdDigits v)[1].toNat = v.toNat / 10 % 10 ∧
      (bcdDigits v)[2].toNat = v.toNat % 10 := by
  have hv : v.toNat < 256 := v.isLt
  have hundreds : v.toNat / 100 < 256 := by omega
  have tens : v.toNat / 10 % 10 < 256 := by omega
  have ones : v.toNat % 10 < 256 := by omega
  exact ⟨Nat.mod_eq_of_lt hundreds, Nat.mod_eq_of_lt tens, Nat.mod_eq_of_lt ones⟩

/-! ### The statements of R201, R202 and R203 -/

/-- Settles O50: one write to `I`, of the 16-bit sum. -/
theorem addToAddressRegister : Obligations.AddToAddressRegister := by
  unfold Obligations.AddToAddressRegister
  exact fun x s => ⟨(s.setI (s.I + (s.readV x).setWidth 16)).advance, exec_addI x s,
    toNat_add_setWidth_byte s.I (s.readV x), State.advance_pc _, changesOnly_setI_advance s _⟩

/-- Settles O51: one write to `I`, of the glyph's address. -/
theorem fontAddressFromRegister : Obligations.FontAddressFromRegister := by
  unfold Obligations.FontAddressFromRegister
  exact fun x s => ⟨(s.setI (glyphAddress (s.readV x))).advance, exec_ldF x s,
    toNat_glyphAddress (s.readV x) fontBase, State.advance_pc _, changesOnly_setI_advance s _⟩

/-- Settles O52: one store of three bytes at `I`, the digits of `V[x]`. -/
theorem decimalDigitsStored : Obligations.DecimalDigitsStored := by
  unfold Obligations.DecimalDigitsStored
  intro x s
  obtain ⟨hundreds, tens, ones⟩ := toNat_bcdDigits (s.readV x)
  have hread := readByte_elementAddr_writeBytes s (bcdDigits (s.readV x)) (by simp)
  exact ⟨(s.setMEM (Memory.writeBytes s.MEM s.I.toNat (bcdDigits (s.readV x)))).advance, exec_ldB x s,
    (congrArg BitVec.toNat (hread 0 (by simp))).trans hundreds, (congrArg BitVec.toNat (hread 1 (by simp))).trans tens,
    (congrArg BitVec.toNat (hread 2 (by simp))).trans ones, State.advance_pc _,
    changesOnly_writeBytes_advance s (bcdDigits (s.readV x))⟩

end Sys2Proof.Machine
end

section
/-! SUPPORT. The timer tick (45_timers.md R221): one counter's decrement, and the frame of a write to both counters. -/

namespace Sys2Proof.Machine

/-- One decrement is truncated subtraction: 0 stays 0, and a counter above 0 does not borrow. -/
theorem toNat_countDown (b : Byte) : (countDown b).toNat = b.toNat - 1 := by
  rw [countDown]
  split
  case isTrue hzero => rw [hzero]; rfl
  case isFalse hpos =>
    have hle : 1 ≤ b := Nat.one_le_iff_ne_zero.2 fun h => hpos (BitVec.eq_of_toNat_eq h)
    exact BitVec.toNat_sub_of_le hle

/-- Writing both counters changes the two counters alone. -/
theorem changesOnly_setDT_setST (s : State) (d t : Byte) :
    ChangesOnly (among [.dt, .st]) s ((s.setDT d).setST t) := by
  intro part hpart
  cases part
  case dt => exact absurd List.mem_cons_self hpart
  case st => exact absurd (List.mem_cons_of_mem _ List.mem_cons_self) hpart
  all_goals rfl

theorem applyOp_tickTimers (s : State) :
    applyOp .tickTimers s = .next (.ok, (s.setDT (countDown s.DT)).setST (countDown s.ST)) := rfl

/-! ### The statement of R221 -/

/-- Settles O57: a tick writes each counter with its own decrement. -/
theorem tickDecrementsBothTimers : Obligations.TickDecrementsBothTimers := by
  unfold Obligations.TickDecrementsBothTimers
  exact fun s => ⟨(s.setDT (countDown s.DT)).setST (countDown s.ST), applyOp_tickTimers s, toNat_countDown s.DT,
    toNat_countDown s.ST, changesOnly_setDT_setST s _ _⟩

end Sys2Proof.Machine
end

section
/-! SUPPORT. No trap (60_exceptions.md R260): every instruction, and with it every step, answers a next state. -/

namespace Sys2Proof.Machine

/-- Every instruction answers a next state in every state. RND is apart only because it moves the model's counter. -/
theorem exists_exec_eq_next (i : Instr) (s : State) : ∃ t, exec i s = .next t := by
  by_cases hrnd : ∃ x nn, i = .rnd x nn
  · obtain ⟨x, nn, rfl⟩ := hrnd
    exact ⟨_, exec_rnd x nn s⟩
  · obtain ⟨t, ht, -, -⟩ := execAt_atCount .spec s i s.rndCount fun x nn h => hrnd ⟨x, nn, h⟩
    exact ⟨t, (execAt_spec s i).symm.trans ht⟩

/-- Every step answers a next state: the state itself at the program's end, else what the fetched instruction leaves. -/
theorem exists_step_eq_next (s : State) : ∃ t, step s = .next t := by
  cases hend : s.ended with
  | true => exact ⟨s, step_of_ended s hend⟩
  | false =>
    rw [step_of_not_ended s hend]
    exact exists_exec_eq_next s.fetchInstr s

/-- Settles O11: no instruction's meaning has a faulting or refused outcome, and a step is an instruction or nothing. -/
theorem noInstructionTraps : Obligations.NoInstructionTraps := by
  unfold Obligations.NoInstructionTraps
  exact ⟨exists_exec_eq_next, exists_step_eq_next⟩

end Sys2Proof.Machine
end

section
/-! SUPPORT. The encoder and the decoder (30_encoding.md R70 to R81): the fields of a word as numbers, which words are
unassigned, the two round trips, and the row of the opcode table that a word's instruction belongs to. -/

namespace Sys2Proof

open Machine

/-! ### Fields as numbers, and a word from known fields -/

theorem toNat_fieldN (w : Word) : (fieldN w).toNat = w.toNat % 16 := BitVec.extractLsb'_toNat 0 4 w

theorem toNat_fieldNN (w : Word) : (fieldNN w).toNat = w.toNat % 256 := BitVec.extractLsb'_toNat 0 8 w

theorem encNNN_of_fields {w : Word} {o : Nibble} (ho : fieldO w = o) : encNNN o (fieldNNN w) = w :=
  ho ▸ encNNN_fields w

theorem encXNN_of_fields {w : Word} {o : Nibble} {nn : Byte} (ho : fieldO w = o) (hnn : fieldNN w = nn) :
    encXNN o (fieldX w) nn = w :=
  ho ▸ hnn ▸ encXNN_fields w

theorem encXYN_of_fields {w : Word} {o n : Nibble} (ho : fieldO w = o) (hn : fieldN w = n) :
    encXYN o (fieldX w) (fieldY w) n = w :=
  ho ▸ hn ▸ encXYN_fields w

/-! ### The unassigned words (R80) -/

/-- The low nibbles that family 8 does not assign. -/
def freeNibbles : List Nat := [0x8, 0x9, 0xA, 0xB, 0xC, 0xD, 0xF]

/-- The low bytes that family E assigns. -/
def usedBytesE : List Nat := [0x9E, 0xA1]

/-- The low bytes that family F assigns. -/
def usedBytesF : List Nat := [0x07, 0x0A, 0x15, 0x18, 0x1E, 0x29, 0x33, 0x55, 0x65]

theorem isUnassignedWord_iff (w : Word) : isUnassignedWord w = true ↔
    ((fieldO w).toNat = 0x8 ∧ (fieldN w).toNat ∈ freeNibbles) ∨
    ((fieldO w).toNat = 0xE ∧ (fieldNN w).toNat ∉ usedBytesE) ∨
    ((fieldO w).toNat = 0xF ∧ (fieldNN w).toNat ∉ usedBytesF) := by
  simp only [isUnassignedWord, Bool.or_eq_true, Bool.and_eq_true, beq_iff_eq, Bool.not_eq_true',
    List.contains_eq_mem, decide_eq_true_iff, decide_eq_false_iff_not, or_assoc]
  rfl

theorem decodeFamily8_of_free (w : Word) (h : (fieldN w).toNat ∈ freeNibbles) : decodeFamily8 w = .unassigned w := by
  unfold decodeFamily8
  split
  case h_10 => rfl
  all_goals next hn => rw [hn] at h; exact absurd h (by decide)

theorem decodeFamilyE_of_free (w : Word) (h : (fieldNN w).toNat ∉ usedBytesE) : decodeFamilyE w = .unassigned w := by
  unfold decodeFamilyE
  split
  case h_3 => rfl
  all_goals next hn => rw [hn] at h; exact absurd (by decide) h

theorem decodeFamilyF_of_free (w : Word) (h : (fieldNN w).toNat ∉ usedBytesF) : decodeFamilyF w = .unassigned w := by
  unfold decodeFamilyF
  split
  case h_10 => rfl
  all_goals next hn => rw [hn] at h; exact absurd (by decide) h

theorem decodeWord_of_isUnassignedWord (w : Word) (h : isUnassignedWord w = true) : decodeWord w = .unassigned w := by
  obtain ⟨ho, hfree⟩ | ⟨ho, hfree⟩ | ⟨ho, hfree⟩ := (isUnassignedWord_iff w).1 h
  · have hfam : fieldO w = 0x8#4 := BitVec.eq_of_toNat_eq ho
    simp only [decodeWord, hfam, decodeFamily8_of_free w hfree]
  · have hfam : fieldO w = 0xE#4 := BitVec.eq_of_toNat_eq ho
    simp only [decodeWord, hfam, decodeFamilyE_of_free w hfree]
  · have hfam : fieldO w = 0xF#4 := BitVec.eq_of_toNat_eq ho
    simp only [decodeWord, hfam, decodeFamilyF_of_free w hfree]

/-! ### Decoding what was encoded -/

/-- SYS is decoded by its whole word: an address other than the two literal ones leaves the family's third row. -/
theorem decodeWord_encNNN_zero (nnn : Addr12) (hcls : nnn ≠ 0x0E0) (hret : nnn ≠ 0x0EE) :
    decodeWord (encNNN 0x0 nnn) = .sys nnn := by
  have hne {a : Addr12} (h : nnn ≠ a) : encNNN 0x0 nnn ≠ encNNN 0x0 a := fun e =>
    h (by rw [← fieldNNN_encNNN 0x0 nnn, e, fieldNNN_encNNN])
  have hcls' : encNNN 0x0 nnn ≠ 0x00E0 := hne hcls
  have hret' : encNNN 0x0 nnn ≠ 0x00EE := hne hret
  have hfam : decodeWord (encNNN 0x0 nnn) = decodeFamily0 (encNNN 0x0 nnn) :=
    decodeWord_family0 _ (fieldO_encNNN 0x0 nnn)
  rw [hfam, decodeFamily0, if_neg hcls', if_neg hret', fieldNNN_encNNN]

/-- The first round trip: the family of the encoded word picks the decoder's arm, and the arm reads back the
operands. -/
theorem decodeWord_encodeWord (i : Instr) (hwf : i.wf = true) : decodeWord (encodeWord i) = i := by
  cases i
  case cls | ret => rfl
  case sys nnn =>
    simp only [Instr.wf, Bool.and_eq_true, bne_iff_ne] at hwf
    exact decodeWord_encNNN_zero nnn hwf.1 hwf.2
  case unassigned w => exact decodeWord_of_isUnassignedWord w hwf
  case ldReg | orReg | andReg | xorReg | addReg | subReg | shr | subnReg | shl =>
    simp [encodeWord, decodeWord, decodeFamily8]
  case skp | sknp => simp [encodeWord, decodeWord, decodeFamilyE]
  case ldVxDT | ldVxK | ldDTVx | ldSTVx | addI | ldF | ldB | stRegs | ldRegs =>
    simp [encodeWord, decodeWord, decodeFamilyF]
  all_goals simp [encodeWord, decodeWord]

/-- The two bytes of a word make the word again (20_memory.md R53). -/
theorem wordOfBytes_bytes (w : Word) : wordOfBytes (w.extractLsb' 8 8) (w.extractLsb' 0 8) = w :=
  BitVec.extractLsb'_append_extractLsb' (w := 8) (len := 8) (x := w)

theorem decode_encode_append (i : Instr) (rest : List Byte) :
    decode (encode i ++ rest) = .ok (decodeWord (encodeWord i), rest) := by
  rw [encode, bytesOfWord, List.cons_append, List.cons_append, List.nil_append, decode, wordOfBytes_bytes]

/-- Settles O2: a case per constructor for the word, and the bytes of a word make the word again. -/
theorem decodeInvertsEncode : Obligations.DecodeInvertsEncode := by
  unfold Obligations.DecodeInvertsEncode
  intro i rest hwf
  have hword : decodeWord (encodeWord i) = i := decodeWord_encodeWord i hwf
  exact ⟨hword, by rw [decode_encode_append, hword]⟩

/-! ### Encoding what was decoded -/

/-- An instruction stands for a word: it is well formed and encodes to that word. -/
def Instr.StandsFor (i : Instr) (w : Word) : Prop := i.wf = true ∧ encodeWord i = w

theorem decodeFamily0_standsFor (w : Word) (ho : fieldO w = 0x0) : (decodeFamily0 w).StandsFor w := by
  have hw : encNNN 0x0 (fieldNNN w) = w := encNNN_of_fields ho
  unfold decodeFamily0
  split
  case isTrue h => exact ⟨rfl, h.symm⟩
  split
  case isTrue h => exact ⟨rfl, h.symm⟩
  case isFalse hcls hret =>
    have hne (a : Addr12) (h : w ≠ encNNN 0x0 a) : fieldNNN w ≠ a := fun e => h (by rw [← e, hw])
    refine ⟨?_, hw⟩
    rw [Instr.wf, Bool.and_eq_true, bne_iff_ne, bne_iff_ne]
    exact ⟨hne 0x0E0 hcls, hne 0x0EE hret⟩

/-- A nibble other than the nine assigned ones is one of the seven that R80 lists. -/
theorem mem_freeNibbles : ∀ n : Nibble, n ≠ 0x0 → n ≠ 0x1 → n ≠ 0x2 → n ≠ 0x3 → n ≠ 0x4 → n ≠ 0x5 → n ≠ 0x6 →
    n ≠ 0x7 → n ≠ 0xE → n.toNat ∈ freeNibbles := by
  decide

theorem decodeFamily8_standsFor (w : Word) (ho : fieldO w = 0x8) : (decodeFamily8 w).StandsFor w := by
  unfold decodeFamily8
  split
  case h_10 h0 h1 h2 h3 h4 h5 h6 h7 hE =>
    exact ⟨(isUnassignedWord_iff w).2 (.inl ⟨congrArg BitVec.toNat ho, mem_freeNibbles _ h0 h1 h2 h3 h4 h5 h6 h7 hE⟩),
      rfl⟩
  all_goals next hn => exact ⟨rfl, encXYN_of_fields ho hn⟩

theorem decodeFamilyE_standsFor (w : Word) (ho : fieldO w = 0xE) : (decodeFamilyE w).StandsFor w := by
  unfold decodeFamilyE
  split
  case h_3 h1 h2 =>
    refine ⟨(isUnassignedWord_iff w).2 (.inr (.inl ⟨congrArg BitVec.toNat ho, ?_⟩)), rfl⟩
    simp_all [usedBytesE, BitVec.toNat_eq]
  all_goals next hn => exact ⟨rfl, encXNN_of_fields ho hn⟩

theorem decodeFamilyF_standsFor (w : Word) (ho : fieldO w = 0xF) : (decodeFamilyF w).StandsFor w := by
  unfold decodeFamilyF
  split
  case h_10 =>
    refine ⟨(isUnassignedWord_iff w).2 (.inr (.inr ⟨congrArg BitVec.toNat ho, ?_⟩)), rfl⟩
    simp_all [usedBytesF, BitVec.toNat_eq]
  all_goals next hn => exact ⟨rfl, encXNN_of_fields ho hn⟩

/-- A 4-bit field is one of the sixteen families. -/
theorem mem_families : ∀ o : Nibble,
    o ∈ [0x0, 0x1, 0x2, 0x3, 0x4, 0x5, 0x6, 0x7, 0x8, 0x9, 0xA, 0xB, 0xC, 0xD, 0xE, 0xF] := by
  decide

/-- The second round trip, along the decoder's two levels: each arm keeps every field of the word. -/
theorem decodeWord_standsFor (w : Word) : (decodeWord w).StandsFor w := by
  unfold decodeWord
  split
  case h_1 ho => exact decodeFamily0_standsFor w ho
  case h_9 ho => exact decodeFamily8_standsFor w ho
  case h_15 ho => exact decodeFamilyE_standsFor w ho
  case h_16 ho => exact decodeFamilyF_standsFor w ho
  case h_2 ho | h_3 ho | h_11 ho | h_12 ho => exact ⟨rfl, encNNN_of_fields ho⟩
  case h_4 ho | h_5 ho | h_7 ho | h_8 ho | h_13 ho => exact ⟨rfl, encXNN_of_fields ho rfl⟩
  case h_6 ho | h_10 ho | h_14 ho => exact ⟨rfl, encXYN_of_fields ho rfl⟩
  case h_17 =>
    have hmem := mem_families (fieldO w)
    simp only [List.mem_cons, List.not_mem_nil, or_false] at hmem
    tauto

theorem wf_decodeWord (w : Word) : (decodeWord w).wf = true := (decodeWord_standsFor w).1

theorem encodeWord_decodeWord (w : Word) : encodeWord (decodeWord w) = w := (decodeWord_standsFor w).2

/-- Settles O3: along the two levels of the decoder, no arm drops a bit. -/
theorem encodeInvertsDecode : Obligations.EncodeInvertsDecode := by
  unfold Obligations.EncodeInvertsDecode
  exact decodeWord_standsFor

/-- Settles O1: eleven closed words, by evaluation. -/
theorem writtenWordsDecode : Obligations.WrittenWordsDecode := by
  unfold Obligations.WrittenWordsDecode
  decide

/-! ### Which words decode as unassigned -/

/-- By the two round trips, exactly the words that R80 lists decode as unassigned. -/
theorem decodeWord_eq_unassigned_iff (w : Word) :
    (∃ w', decodeWord w = .unassigned w') ↔ isUnassignedWord w = true := by
  constructor
  · rintro ⟨w', h⟩
    have hw : w' = w := by rw [← encodeWord_decodeWord w, h, encodeWord]
    have hwf := wf_decodeWord w
    rwa [h, hw] at hwf
  · exact fun h => ⟨w, decodeWord_of_isUnassignedWord w h⟩

/-- Settles O6: the list of R80 in the numbers of the fields, and an unassigned word only advances. -/
theorem unassignedWordsAdvance : Obligations.UnassignedWordsAdvance := by
  unfold Obligations.UnassignedWordsAdvance
  intro w
  refine ⟨?_, fun s => ⟨s.advance, exec_unassigned w s, State.advance_pc s,
    changesOnly_advance s⟩⟩
  rw [decodeWord_eq_unassigned_iff, isUnassignedWord_iff, toNat_fieldO, toNat_fieldN, toNat_fieldNN]
  rfl

/-! ### The row of the opcode table (R81) -/

theorem rowOf_mem (i : Instr) : rowOf i ∈ opcodeRows := by
  cases i <;> simp only [rowOf] <;> decide

theorem rowMatches_encodeWord (i : Instr) : rowMatches (encodeWord i) (rowOf i) = true := by
  cases i
  case cls => exact Laws.RowMatch.cls
  case ret => exact Laws.RowMatch.ret
  case unassigned w => exact Laws.RowMatch.unassigned w
  case ldReg | orReg | andReg | xorReg | addReg | subReg | shr | subnReg | shl =>
    exact Laws.RowMatch.of_mask_eq (mask_encXYN ..)
  case skp | sknp | ldVxDT | ldVxK | ldDTVx | ldSTVx | addI | ldF | ldB | stRegs | ldRegs =>
    exact Laws.RowMatch.of_mask_eq (mask_encXNN ..)
  all_goals exact Laws.RowMatch.of_mask_eq (mask_encNNN ..)

/-- A row that fixes a field fixes it for every word it matches. -/
theorem fieldO_of_rowMatches {w mask value : Word} (h : rowMatches w (mask, value) = true)
    (hm : fieldO mask = BitVec.allOnes 4) : fieldO w = fieldO value := by
  rw [← show w &&& mask = value from beq_iff_eq.1 h]
  simp only [fieldO, BitVec.extractLsb'_and] at hm ⊢
  rw [hm, BitVec.and_allOnes]

theorem fieldN_of_rowMatches {w mask value : Word} (h : rowMatches w (mask, value) = true)
    (hm : fieldN mask = BitVec.allOnes 4) : fieldN w = fieldN value := by
  rw [← show w &&& mask = value from beq_iff_eq.1 h]
  simp only [fieldN, BitVec.extractLsb'_and] at hm ⊢
  rw [hm, BitVec.and_allOnes]

theorem fieldNN_of_rowMatches {w mask value : Word} (h : rowMatches w (mask, value) = true)
    (hm : fieldNN mask = BitVec.allOnes 8) : fieldNN w = fieldNN value := by
  rw [← show w &&& mask = value from beq_iff_eq.1 h]
  simp only [fieldNN, BitVec.extractLsb'_and] at hm ⊢
  rw [hm, BitVec.and_allOnes]

/-- The row of the unassigned words is the only one that fixes no bit. -/
theorem rowOf_eq_free_or_maskBits_pos (i : Instr) : rowOf i = (0x0000, 0x0000) ∨ 0 < maskBits (rowOf i).1 := by
  cases i
  case unassigned w => exact .inl rfl
  all_goals exact .inr (by simp only [rowOf]; decide)

/-- The rows that fix a whole word. -/
def wordRows : List (Word × Word) := [(0xFFFF, 0x00E0), (0xFFFF, 0x00EE)]

/-- The rows of the families with no second level. -/
def familyRows : List (Word × Word) :=
  [(0xF000, 0x1000), (0xF000, 0x2000), (0xF000, 0x3000), (0xF000, 0x4000), (0xF000, 0x5000), (0xF000, 0x6000),
   (0xF000, 0x7000), (0xF000, 0x9000), (0xF000, 0xA000), (0xF000, 0xB000), (0xF000, 0xC000), (0xF000, 0xD000)]

/-- The rows of family 8, which fix the low nibble too. -/
def nibbleRows : List (Word × Word) :=
  [(0xF00F, 0x8000), (0xF00F, 0x8001), (0xF00F, 0x8002), (0xF00F, 0x8003), (0xF00F, 0x8004), (0xF00F, 0x8005),
   (0xF00F, 0x8006), (0xF00F, 0x8007), (0xF00F, 0x800E)]

/-- The rows of families E and F, which fix the low byte too. -/
def byteRows : List (Word × Word) :=
  [(0xF0FF, 0xE09E), (0xF0FF, 0xE0A1), (0xF0FF, 0xF007), (0xF0FF, 0xF00A), (0xF0FF, 0xF015), (0xF0FF, 0xF018),
   (0xF0FF, 0xF01E), (0xF0FF, 0xF029), (0xF0FF, 0xF033), (0xF0FF, 0xF055), (0xF0FF, 0xF065)]

/-- The table by what its rows fix; SYS and the unassigned words have a row each of their own. -/
theorem opcodeRows_cases {row : Word × Word} (hrow : row ∈ opcodeRows) : row ∈ wordRows ∨ row = (0xF000, 0x0000) ∨
    row ∈ familyRows ∨ row ∈ nibbleRows ∨ row ∈ byteRows ∨ row = (0x0000, 0x0000) := by
  fin_cases hrow <;> decide

theorem rowOf_decodeWord_of_wordRows {w : Word} {row : Word × Word} (hrow : row ∈ wordRows)
    (h : rowMatches w row = true) : row = rowOf (decodeWord w) := by
  have word {value : Word} (hv : rowMatches w (0xFFFF, value) = true) : w = value :=
    BitVec.and_allOnes.symm.trans (beq_iff_eq.1 hv)
  fin_cases hrow <;> obtain rfl := word h <;> rfl

theorem rowOf_decodeWord_of_familyRows {w : Word} {row : Word × Word} (hrow : row ∈ familyRows)
    (h : rowMatches w row = true) : row = rowOf (decodeWord w) := by
  fin_cases hrow
  all_goals
    have ho := fieldO_of_rowMatches h rfl
    simp only [decodeWord, ho]
    rfl

theorem rowOf_decodeWord_of_nibbleRows {w : Word} {row : Word × Word} (hrow : row ∈ nibbleRows)
    (h : rowMatches w row = true) : row = rowOf (decodeWord w) := by
  fin_cases hrow
  all_goals
    have ho := fieldO_of_rowMatches h rfl
    have hn := fieldN_of_rowMatches h rfl
    simp only [decodeWord, ho, decodeFamily8, hn]
    rfl

theorem rowOf_decodeWord_of_byteRows {w : Word} {row : Word × Word} (hrow : row ∈ byteRows)
    (h : rowMatches w row = true) : row = rowOf (decodeWord w) := by
  fin_cases hrow
  all_goals
    have ho := fieldO_of_rowMatches h rfl
    have hnn := fieldNN_of_rowMatches h rfl
    simp only [decodeWord, ho, decodeFamilyE, decodeFamilyF, hnn]
    rfl

/-- Under the row of SYS stand SYS itself and the two literal words, whose rows fix every bit. -/
theorem rowOf_decodeWord_of_sysRow {w : Word} (h : rowMatches w (0xF000, 0x0000) = true) :
    (0xF000, 0x0000) = rowOf (decodeWord w) ∨ maskBits 0xF000 < maskBits (rowOf (decodeWord w)).1 := by
  rw [decodeWord_family0 w (fieldO_of_rowMatches h rfl), decodeFamily0]
  split
  · exact .inr (by decide)
  split
  · exact .inr (by decide)
  · exact .inl rfl

/-- A row that matches a word is the row the decoder picks, or fixes fewer bits. -/
theorem row_eq_or_maskBits_lt (w : Word) (row : Word × Word) (hrow : row ∈ opcodeRows)
    (h : rowMatches w row = true) :
    row = rowOf (decodeWord w) ∨ maskBits row.1 < maskBits (rowOf (decodeWord w)).1 := by
  obtain hword | rfl | hfamily | hnibble | hbyte | rfl := opcodeRows_cases hrow
  · exact .inl (rowOf_decodeWord_of_wordRows hword h)
  · exact rowOf_decodeWord_of_sysRow h
  · exact .inl (rowOf_decodeWord_of_familyRows hfamily h)
  · exact .inl (rowOf_decodeWord_of_nibbleRows hnibble h)
  · exact .inl (rowOf_decodeWord_of_byteRows hbyte h)
  · exact (rowOf_eq_free_or_maskBits_pos (decodeWord w)).imp Eq.symm id

/-- Settles O4: the decoded instruction's row matches because the word is its encoding, and among the rows that match
it fixes the most bits. -/
theorem decodePicksMostSpecificRow : Obligations.DecodePicksMostSpecificRow := by
  unfold Obligations.DecodePicksMostSpecificRow
  intro w
  refine ⟨rowOf_mem _, ?_, fun row hrow hmatch hne => (row_eq_or_maskBits_lt w row hrow hmatch).resolve_left hne⟩
  simpa only [encodeWord_decodeWord] using rowMatches_encodeWord (decodeWord w)

end Sys2Proof
end

section
/-! SUPPORT. Frames: how they widen and chain, the frame of each write that instructions share, and from them the frame
of every instruction and the writers of each part (10_state.md R22 to R35, 20_memory.md R51). -/

namespace Sys2Proof.Machine

variable {s t u : State}

/-! ### Frames in general -/

theorem Part.same_refl (part : Part) (s : State) : part.same s s := by cases part <;> rfl

theorem Part.same_trans {part : Part} (h : part.same s t) (h' : part.same t u) : part.same s u := by
  cases part <;> exact Eq.trans h' h

theorem changesOnly_refl (allowed : Part → Prop) (s : State) : ChangesOnly allowed s s :=
  fun part _ => part.same_refl s

theorem ChangesOnly.mono {a b : Part → Prop} (h : ChangesOnly a s t) (hab : ∀ part, a part → b part) :
    ChangesOnly b s t :=
  fun part hb => h part fun ha => hb (hab part ha)

theorem ChangesOnly.trans {a : Part → Prop} (h : ChangesOnly a s t) (h' : ChangesOnly a t u) : ChangesOnly a s u :=
  fun part ha => Part.same_trans (h part ha) (h' part ha)

/-- A frame that lists its parts holds with any list that has them all. -/
theorem ChangesOnly.among_mono {ps qs : List Part} (h : ChangesOnly (among ps) s t) (hsub : ps ⊆ qs) :
    ChangesOnly (among qs) s t :=
  h.mono fun _ hmem => hsub hmem

/-! ### The writes that instructions share -/

theorem changesOnly_skipIf (s : State) (c : Bool) : ChangesOnly (among [.pc]) s (s.skipIf c) :=
  changesOnly_setPc s _

theorem changesOnly_setStack_setPc (s : State) (st : List Word) (w : Word) :
    ChangesOnly (among [.pc, .stack]) s ((s.setStack st).setPc w) := by
  intro part hpart
  cases part
  case pc | stack => exact absurd (by simp [among]) hpart
  all_goals rfl

/-- A call writes `pc` and the stack, or nothing. -/
theorem changesOnly_callTo (s : State) (target : Word) (depth : Nat) :
    ChangesOnly (among [.pc, .stack]) s (s.callTo target depth) := by
  obtain ⟨-, h⟩ | ⟨-, h⟩ := s.callTo_cases target depth <;> rw [h]
  · exact changesOnly_setStack_setPc s _ _
  · exact changesOnly_refl _ s

/-- A return writes `pc` and the stack, or nothing. -/
theorem changesOnly_returnFromCall (s : State) : ChangesOnly (among [.pc, .stack]) s s.returnFromCall := by
  obtain ⟨a, rest, -, h⟩ | ⟨-, h⟩ := s.returnFromCall_cases <;> rw [h]
  · exact changesOnly_setStack_setPc s rest a
  · exact changesOnly_refl _ s

theorem changesOnly_setResultAndFlag_advance (s : State) (x : Reg) (result : Byte) (flag : Bool) :
    ChangesOnly (among [.v x, .v vF, .pc]) s (s.setResultAndFlag x result flag).advance := by
  intro part hpart
  cases part
  case v k =>
    simp only [among, List.mem_cons, Part.v.injEq, not_or] at hpart
    obtain ⟨hx, hF, -⟩ := hpart
    simp [Part.same, hx, hF]
  case pc => exact absurd (by simp [among]) hpart
  all_goals rfl

theorem changesOnly_setDT_advance (s : State) (b : Byte) : ChangesOnly (among [.dt, .pc]) s (s.setDT b).advance := by
  intro part hpart
  cases part
  case dt | pc => exact absurd (by simp [among]) hpart
  all_goals rfl

theorem changesOnly_setST_advance (s : State) (b : Byte) : ChangesOnly (among [.st, .pc]) s (s.setST b).advance := by
  intro part hpart
  cases part
  case st | pc => exact absurd (by simp [among]) hpart
  all_goals rfl

/-- Replacing the registers by a file that agrees above `x` changes V0 to Vx and `pc` alone. -/
theorem changesOnly_setAllV_advance (s : State) (x : Reg) (v : Vector Byte 16)
    (h : ∀ k : Reg, ¬ k ≤ x → v[k.val] = s.readV k) : ChangesOnly (pcOrFirstRegs x) s (s.setAllV v).advance := by
  intro part hpart
  cases part
  case v k => exact h k hpart
  case pc => exact absurd trivial hpart
  all_goals rfl

theorem changesOnly_loadFirstRegs_advance (s : State) (x : Reg) :
    ChangesOnly (pcOrFirstRegs x) s (s.setAllV (s.loadFirstRegs x)).advance :=
  changesOnly_setAllV_advance s x _ fun k hk => (s.getElem_loadFirstRegs x k).trans (if_neg hk)

theorem changesOnly_countRnd (s : State) : ChangesOnly (among [.rndCount]) s s.countRnd := by
  intro part hpart
  cases part
  case rndCount => exact absurd (by simp [among]) hpart
  all_goals rfl

/-- RND with the free byte: the register, `pc`, and the model's own counter. -/
theorem changesOnly_rndWith_countRnd (s : State) (rnd : Byte) (x : Reg) (nn : Byte) :
    ChangesOnly (among [.v x, .pc, .rndCount]) s (s.rndWith rnd x nn).countRnd :=
  ((changesOnly_setV_advance s x (rnd &&& nn)).among_mono (by simp)).trans
    ((changesOnly_countRnd _).among_mono (by simp))

/-- A clear writes the pixels, DIRTY and `pc`. -/
theorem changesOnly_setFB_setDIRTY_advance (s : State) (fb : Framebuffer) (d : Bool) :
    ChangesOnly (pcOrDisplay false) s ((s.setFB fb).setDIRTY d).advance := by
  intro part hpart
  cases part
  case pc | dirty | pixel => exact absurd trivial hpart
  all_goals rfl

/-- A draw writes the pixels, VF, DIRTY and `pc`. -/
theorem changesOnly_setFB_setV_setDIRTY_advance (s : State) (fb : Framebuffer) (b : Byte) (d : Bool) :
    ChangesOnly (pcOrDisplay true) s (((s.setFB fb).setV vF b).setDIRTY d).advance := by
  intro part hpart
  cases part
  case v k =>
    have hk : k ≠ vF := fun h => hpart ⟨h, rfl⟩
    simp [Part.same, hk]
  case pc | dirty | pixel => exact absurd trivial hpart
  all_goals rfl

/-! ### Every instruction -/

/-- The two ends of a key wait: no key is down and nothing is written, or the lowest key goes to `V[x]`. -/
theorem exec_ldVxK_cases (x : Reg) (s : State) :
    (s.lowestKey = none ∧ exec (.ldVxK x) s = .next s) ∨
      ∃ k, s.lowestKey = some k ∧ exec (.ldVxK x) s = .next (s.setV x (BitVec.ofNat 8 k)).advance := by
  cases h : s.lowestKey with
  | none => exact .inl ⟨rfl, exec_ldVxK_none x s h⟩
  | some k => exact .inr ⟨k, rfl, exec_ldVxK_some x s k h⟩

/-- An instruction has one answer. -/
theorem exec_unique {i : Instr} (ht : exec i s = .next t) (hu : exec i s = .next u) : t = u :=
  Host.Outcome.next.inj (ht.symm.trans hu)

/-- The frame of every instruction, by the frames of the writes it makes. -/
theorem changesOnly_mayWrite (i : Instr) (s t : State) (h : exec i s = .next t) : ChangesOnly (mayWrite s i) s t := by
  have goal_of {u : State} (hu : exec i s = .next u) (hframe : ChangesOnly (mayWrite s i) s u) :
      ChangesOnly (mayWrite s i) s t :=
    exec_unique hu h ▸ hframe
  cases i
  case cls => exact goal_of rfl (changesOnly_setFB_setDIRTY_advance s blankScreen true)
  case ret => exact goal_of rfl (changesOnly_returnFromCall s)
  case call nnn => exact goal_of rfl (changesOnly_callTo s _ _)
  case sys | unassigned => exact goal_of rfl (changesOnly_advance s)
  case jp | jpV0 => exact goal_of rfl (changesOnly_setPc s _)
  case seImm | sneImm | seReg | sneReg | skp | sknp => exact goal_of rfl (changesOnly_skipIf s _)
  case ldImm | addImm | ldReg | orReg | andReg | xorReg | ldVxDT =>
    exact goal_of rfl ((changesOnly_setV_advance s _ _).among_mono (by simp))
  case addReg | subReg | shr | subnReg | shl =>
    exact goal_of rfl ((changesOnly_setResultAndFlag_advance s _ _ _).among_mono (by simp))
  case ldI | addI | ldF => exact goal_of rfl ((changesOnly_setI_advance s _).among_mono (by simp))
  case rnd x nn => exact goal_of rfl ((changesOnly_rndWith_countRnd s _ x nn).among_mono (by simp))
  case drw => exact goal_of rfl (changesOnly_setFB_setV_setDIRTY_advance s _ _ true)
  case ldVxK x =>
    obtain ⟨-, hk⟩ | ⟨k, -, hk⟩ := exec_ldVxK_cases x s
    · exact goal_of hk (changesOnly_refl _ s)
    · exact goal_of hk ((changesOnly_setV_advance s x _).among_mono (by simp))
  case ldDTVx => exact goal_of rfl ((changesOnly_setDT_advance s _).among_mono (by simp))
  case ldSTVx => exact goal_of rfl ((changesOnly_setST_advance s _).among_mono (by simp))
  case ldB => exact goal_of rfl (changesOnly_writeBytes_advance s (bcdDigits _))
  case stRegs x =>
    have hframe := changesOnly_writeBytes_advance s (s.firstRegs x)
    rw [State.length_firstRegs] at hframe
    exact goal_of rfl hframe
  case ldRegs x => exact goal_of rfl (changesOnly_loadFirstRegs_advance s x)

/-- Settles O24: by the frame lemma of every instruction. -/
theorem everyInstructionKeepsItsFrame : Obligations.EveryInstructionKeepsItsFrame := by
  unfold Obligations.EveryInstructionKeepsItsFrame
  exact changesOnly_mayWrite

/-! ### Who writes each part -/

/-- A part that changed is one that the instruction may write. -/
theorem mayWrite_of_changed {i : Instr} (h : exec i s = .next t) {part : Part} (hne : ¬ part.same s t) :
    mayWrite s i part :=
  by_contra fun hw => hne (changesOnly_mayWrite i s t h part hw)

section Writers

variable (s : State) (i : Instr)

theorem mayWrite_i : mayWrite s i .i ↔ (∃ nnn, i = .ldI nnn) ∨ (∃ x, i = .addI x) ∨ ∃ x, i = .ldF x := by
  cases i <;> simp [mayWrite, among, pcOrDisplay, pcOrBytesAtI, pcOrFirstRegs]

theorem mayWrite_stack : mayWrite s i .stack ↔ (∃ nnn, i = .call nnn) ∨ i = .ret := by
  cases i <;> simp [mayWrite, among, pcOrDisplay, pcOrBytesAtI, pcOrFirstRegs]

theorem mayWrite_dt : mayWrite s i .dt ↔ ∃ x, i = .ldDTVx x := by
  cases i <;> simp [mayWrite, among, pcOrDisplay, pcOrBytesAtI, pcOrFirstRegs]

theorem mayWrite_st : mayWrite s i .st ↔ ∃ x, i = .ldSTVx x := by
  cases i <;> simp [mayWrite, among, pcOrDisplay, pcOrBytesAtI, pcOrFirstRegs]

theorem mayWrite_mem {a : Nat} (h : mayWrite s i (.mem a)) : (∃ x, i = .ldB x) ∨ ∃ x, i = .stRegs x := by
  revert h
  cases i <;> simp [mayWrite, among, pcOrDisplay, pcOrFirstRegs]

theorem mayWrite_pixel (px : Fin 64) (py : Fin 32) :
    mayWrite s i (.pixel px py) ↔ i = .cls ∨ ∃ x y n, i = .drw x y n := by
  cases i <;> simp [mayWrite, among, pcOrDisplay, pcOrBytesAtI, pcOrFirstRegs]

theorem mayWrite_dirty : mayWrite s i .dirty ↔ i = .cls ∨ ∃ x y n, i = .drw x y n := by
  cases i <;> simp [mayWrite, among, pcOrDisplay, pcOrBytesAtI, pcOrFirstRegs]

theorem not_mayWrite_key (k : Fin 16) : ¬ mayWrite s i (.key k) := by
  cases i <;> simp [mayWrite, among, pcOrDisplay, pcOrBytesAtI, pcOrFirstRegs]

theorem not_mayWrite_progLen : ¬ mayWrite s i .progLen := by
  cases i <;> simp [mayWrite, among, pcOrDisplay, pcOrBytesAtI, pcOrFirstRegs]

theorem not_mayWrite_loaded : ¬ mayWrite s i .loaded := by
  cases i <;> simp [mayWrite, among, pcOrDisplay, pcOrBytesAtI, pcOrFirstRegs]

end Writers

/-- Two keypads with the same keys are one keypad. -/
theorem keypad_ext (a b : Vector Bool 16) (h : ∀ k : Fin 16, a[k.val] = b[k.val]) : a = b :=
  Vector.ext fun k hk => h ⟨k, hk⟩

/-- No instruction writes the keys, PROG_LEN or LOADED (10_state.md R33, R35). -/
theorem exec_keeps_host_fields {i : Instr} (h : exec i s = .next t) :
    t.KEY = s.KEY ∧ t.PROG_LEN = s.PROG_LEN ∧ t.LOADED = s.LOADED := by
  have hframe := changesOnly_mayWrite i s t h
  exact ⟨keypad_ext _ _ fun k => hframe (.key k) (not_mayWrite_key s i k), hframe .progLen (not_mayWrite_progLen s i),
    hframe .loaded (not_mayWrite_loaded s i)⟩

/-- A changed framebuffer has a changed pixel. -/
theorem exists_pixel_ne {a b : Framebuffer} (h : a ≠ b) : ∃ x y, pixelOf a x y ≠ pixelOf b x y := by
  by_contra hno
  push Not at hno
  exact h (framebuffer_ext a b hno)

/-- Settles O25: a part that changed is in `mayWrite`, and `mayWrite` has each part for its writers alone. -/
theorem onlyTheseInstructionsWriteEachPart : Obligations.OnlyTheseInstructionsWriteEachPart := by
  unfold Obligations.OnlyTheseInstructionsWriteEachPart
  intro i s t h
  have writes (part : Part) (hne : ¬ part.same s t) : mayWrite s i part := mayWrite_of_changed h hne
  refine ⟨fun hne => (mayWrite_i s i).1 (writes .i hne), fun hne => (mayWrite_stack s i).1 (writes .stack hne),
    fun hne => (mayWrite_dt s i).1 (writes .dt hne), fun hne => (mayWrite_st s i).1 (writes .st hne),
    fun a hne => mayWrite_mem s i (writes (.mem a) hne), fun hne => ?_,
    fun hne => (mayWrite_dirty s i).1 (writes .dirty hne), exec_keeps_host_fields h⟩
  obtain ⟨px, py, hpixel⟩ := exists_pixel_ne hne
  exact (mayWrite_pixel s i px py).1 (writes (.pixel px py) hpixel)

end Sys2Proof.Machine
end

section
/-! SUPPORT. The step and its result (40_fetch_control.md R100 to R102, 46_host_interface.md R243, R244,
60_exceptions.md R263): the four ways a `step(rnd)` goes, and what follows from them. -/

namespace Sys2Proof.Machine

/-! ### The end-of-program test -/

theorem ended_eq_false_iff (s : State) : s.ended = false ↔ s.pc.toNat < 0x200 + s.PROG_LEN := by
  rw [← Bool.not_eq_true, ended_iff, Nat.not_le]

theorem resultAfter_eq (t : State) :
    resultAfter t = if 0x200 + t.PROG_LEN ≤ t.pc.toNat then .programEnded else .continued := by
  simp only [resultAfter, ended_iff]

theorem resultAfter_of_not_ended {t : State} (h : t.ended = false) : resultAfter t = .continued := by
  rw [resultAfter, h]
  rfl

/-! ### The four ways a step goes (R263) -/

/-- How a `step(rnd)` goes, in the order of R263: its result and its next state. -/
inductive StepPath (rnd : Byte) (s : State) : StepResult → State → Prop
  /-- The program had ended before the fetch. -/
  | ended (hend : s.ended = true) : StepPath rnd s .programEnded s
  /-- RND with the host's byte. -/
  | rnd (hrun : s.ended = false) (x : Reg) (nn : Byte) (hf : s.fetchInstr = .rnd x nn) :
    StepPath rnd s (resultAfter (s.rndWith rnd x nn)) (s.rndWith rnd x nn)
  /-- A key wait with no key down. -/
  | waiting (hrun : s.ended = false) (x : Reg) (hf : s.fetchInstr = .ldVxK x) (hk : s.lowestKey = none) :
    StepPath rnd s .awaitingKey s
  /-- Any other instruction. -/
  | ran (hrun : s.ended = false) (hr : ∀ x nn, s.fetchInstr ≠ .rnd x nn)
    (hk : ∀ x, s.fetchInstr = .ldVxK x → s.lowestKey ≠ none) (t : State) (ht : exec s.fetchInstr s = .next t) :
    StepPath rnd s (resultAfter t) t

/-- A path is what `step(rnd)` answers. -/
theorem StepPath.stepWith_eq {rnd : Byte} {s t : State} {r : StepResult} (h : StepPath rnd s r t) :
    stepWith rnd s = .next (.stepped r, t) := by
  cases h with
  | ended hend => exact stepWith_of_ended rnd s hend
  | rnd hrun x nn hf => exact stepWith_rnd rnd s x nn hrun hf
  | waiting hrun x hf hk => exact stepWith_waiting rnd s x hrun hf hk
  | ran hrun hr hk t ht => rw [stepWith_else rnd s hrun hr hk, ht, finishStep]

/-- Every state has a path. -/
theorem exists_stepPath (rnd : Byte) (s : State) : ∃ r t, StepPath rnd s r t := by
  cases hend : s.ended with
  | true => exact ⟨_, _, .ended hend⟩
  | false =>
    by_cases hr : ∃ x nn, s.fetchInstr = .rnd x nn
    · obtain ⟨x, nn, hf⟩ := hr
      exact ⟨_, _, .rnd hend x nn hf⟩
    by_cases hk : ∃ x, s.fetchInstr = .ldVxK x ∧ s.lowestKey = none
    · obtain ⟨x, hf, hnone⟩ := hk
      exact ⟨_, _, .waiting hend x hf hnone⟩
    · obtain ⟨t, ht⟩ := exists_exec_eq_next s.fetchInstr s
      exact ⟨_, t, .ran hend (fun x nn hf => hr ⟨x, nn, hf⟩) (fun x hf hnone => hk ⟨x, hf, hnone⟩) t ht⟩

/-- What `step(rnd)` answers is a path. -/
theorem stepPath_of_stepWith {rnd : Byte} {s t : State} {r : HostResult} (h : stepWith rnd s = .next (r, t)) :
    ∃ q, r = .stepped q ∧ StepPath rnd s q t := by
  obtain ⟨q, u, hpath⟩ := exists_stepPath rnd s
  obtain ⟨rfl, rfl⟩ : HostResult.stepped q = r ∧ u = t := by simpa using hpath.stepWith_eq.symm.trans h
  exact ⟨q, rfl, hpath⟩

/-! ### The keys as FX0A sees them (43_keypad.md R182) -/

theorem lowestKey_eq_none_iff (s : State) : s.lowestKey = none ↔ ∀ k : Fin 16, s.KEY[k.val] = false := by
  rw [State.lowestKey_eq_none]
  exact ⟨fun h k => (s.keyIsDown_lt k.val k.isLt).symm.trans (h k.val k.isLt),
    fun h k hk => (s.keyIsDown_lt k hk).trans (h ⟨k, hk⟩)⟩

/-! ### Writes that do not happen -/

theorem exec_call_of_full (nnn : Addr12) (s : State) (h : stackDepth ≤ s.stack.length) :
    exec (.call nnn) s = .next s := by
  rw [exec_call, State.callTo, if_neg (Nat.not_lt.2 h)]

theorem exec_ret_of_empty (s : State) (h : s.stack = []) : exec .ret s = .next s := by
  rw [exec_ret, State.returnFromCall, h]

/-- An instruction that writes nothing, neither RND nor a key wait, is a step that goes on with the state as it is. -/
theorem stepWith_of_exec_self (rnd : Byte) (s : State) (h : s.ended = false)
    (hr : ∀ x nn, s.fetchInstr ≠ .rnd x nn) (hk : ∀ x, s.fetchInstr ≠ .ldVxK x)
    (hself : exec s.fetchInstr s = .next s) : stepWith rnd s = .next (.stepped .continued, s) := by
  rw [← resultAfter_of_not_ended h]
  exact (StepPath.ran h hr (fun x hf => absurd hf (hk x)) s hself).stepWith_eq

/-! ### The statements of R100, R101 and R263 -/

/-- Settles O9: the decoder's bytes are the fetched word, and before the end a step is that instruction. -/
theorem stepRunsDecodedInstruction : Obligations.StepRunsDecodedInstruction := by
  unfold Obligations.StepRunsDecodedInstruction
  intro s i hpc _ hdecode
  have hfetch : s.fetchInstr = i := by
    rw [decode, Except.ok.injEq, Prod.mk.injEq] at hdecode
    exact hdecode.1
  rw [step_of_not_ended s ((ended_eq_false_iff s).2 hpc), hfetch]

/-- Settles O10: the end test stands before the fetch in both machines. -/
theorem stepAtProgramEndWritesNothing : Obligations.StepAtProgramEndWritesNothing := by
  unfold Obligations.StepAtProgramEndWritesNothing
  intro s rnd hpc
  have hend : s.ended = true := (ended_iff s).2 hpc
  exact ⟨step_of_ended s hend, stepWith_of_ended rnd s hend⟩

/-- Settles O12: one path of the step for each clause. -/
theorem stepResultFollowsPriority : Obligations.StepResultFollowsPriority := by
  unfold Obligations.StepResultFollowsPriority
  intro rnd s
  refine ⟨fun hpc => stepWith_of_ended rnd s ((ended_iff s).2 hpc), fun hpc => ?_⟩
  have hrun : s.ended = false := (ended_eq_false_iff s).2 hpc
  refine ⟨fun x hf hkeys => stepWith_waiting rnd s x hrun hf ((lowestKey_eq_none_iff s).2 hkeys),
    fun nnn hf hfull => ?_, fun hf hempty => ?_, fun hkeys => ?_⟩
  · exact stepWith_of_exec_self rnd s hrun (by simp [hf]) (by simp [hf]) (hf ▸ exec_call_of_full nnn s hfull)
  · exact stepWith_of_exec_self rnd s hrun (by simp [hf]) (by simp [hf]) (hf ▸ exec_ret_of_empty s hempty)
  · obtain ⟨r, t, hpath⟩ := exists_stepPath rnd s
    have hstep := hpath.stepWith_eq
    cases hpath with
    | ended hend => simp [hrun] at hend
    | waiting _ x hf hnone =>
      obtain ⟨k, hk⟩ := hkeys x hf
      simp [(lowestKey_eq_none_iff s).1 hnone k] at hk
    | rnd | ran => exact ⟨_, by rw [hstep, resultAfter_eq]⟩

/-- Settles O13: the two machines take the same path; RND alone moves the counter. -/
theorem plainStepIsHostStep : Obligations.PlainStepIsHostStep := by
  unfold Obligations.PlainStepIsHostStep
  intro s
  obtain ⟨r, t, hpath⟩ := exists_stepPath (Config.hostRnd s.rndCount) s
  have hstep := hpath.stepWith_eq
  cases hpath with
  | ended hend => exact ⟨_, _, s.rndCount, hstep, step_of_ended s hend, .inl rfl⟩
  | rnd hrun x nn hf =>
    refine ⟨_, _, s.rndCount + 1, hstep, ?_, .inr ⟨rfl, x, nn, hf⟩⟩
    rw [step_of_not_ended s hrun, hf, exec_rnd]
    rfl
  | waiting hrun x hf hnone =>
    refine ⟨_, _, s.rndCount, hstep, ?_, .inl rfl⟩
    rw [step_of_not_ended s hrun, hf, exec_ldVxK_none x s hnone]
  | ran hrun hr _ t ht =>
    refine ⟨_, _, s.rndCount, hstep, ?_, .inl rfl⟩
    have hcount : t.rndCount = s.rndCount := by
      obtain ⟨u, hu, hc, -⟩ := execAt_atCount .spec s s.fetchInstr 0 hr
      rw [execAt_spec] at hu
      rw [exec_unique ht hu, hc]
    rw [step_of_not_ended s hrun, ht, ← hcount]

/-- RND with two bytes gives two states that differ in its destination alone. -/
theorem changesOnly_rndWith_rndWith (s : State) (rnd rnd' : Byte) (x : Reg) (nn : Byte) :
    ChangesOnly (among [.v x]) (s.rndWith rnd x nn) (s.rndWith rnd' x nn) := by
  intro part hpart
  cases part
  case v k =>
    have hk : k ≠ x := fun h => hpart (by simp [among, h])
    simp [Part.same, State.rndWith, hk]
  all_goals rfl

/-- Settles O14: the path of a step does not depend on `rnd`, and only that of RND carries it on. -/
theorem onlyRndReadsTheRandomByte : Obligations.OnlyRndReadsTheRandomByte := by
  unfold Obligations.OnlyRndReadsTheRandomByte
  intro rnd rnd' s t r h
  obtain ⟨q, rfl, hpath⟩ := stepPath_of_stepWith h
  cases hpath with
  | ended hend => exact ⟨_, stepWith_of_ended rnd' s hend, fun _ => rfl, fun _ _ _ => changesOnly_refl _ _⟩
  | rnd hrun x nn hf =>
    refine ⟨_, stepWith_rnd rnd' s x nn hrun hf, fun hne => absurd hf (hne x nn), fun x' nn' hf' => ?_⟩
    obtain ⟨rfl, rfl⟩ : x = x' ∧ nn = nn' := by simpa using hf.symm.trans hf'
    exact changesOnly_rndWith_rndWith s rnd rnd' x nn
  | waiting hrun x hf hnone =>
    exact ⟨_, stepWith_waiting rnd' s x hrun hf hnone, fun _ => rfl, fun _ _ _ => changesOnly_refl _ _⟩
  | ran hrun hr hk t ht =>
    exact ⟨_, (StepPath.ran hrun hr hk t ht).stepWith_eq, fun _ => rfl, fun _ _ _ => changesOnly_refl _ _⟩

/-! ### Steps that stay where they are -/

/-- Running on from a state whose step writes nothing stays there. -/
theorem runSteps_of_step_self {s : State} (h : step s = .next s) (n : Nat) : runSteps n s = .next s := by
  induction n with
  | zero => rfl
  | succ n ih => rw [runSteps, h]; exact ih

/-- An instruction that writes nothing hangs: it is fetched again at every later step. -/
theorem runSteps_of_exec_self {s : State} (h : exec s.fetchInstr s = .next s) (n : Nat) : runSteps n s = .next s := by
  refine runSteps_of_step_self ?_ n
  cases hend : s.ended with
  | true => exact step_of_ended s hend
  | false => rw [step_of_not_ended s hend, h]

/-- Settles O29: a full stack makes CALL write nothing. -/
theorem callOnFullStackHangs : Obligations.CallOnFullStackHangs := by
  unfold Obligations.CallOnFullStackHangs
  intro nnn s hfull
  have hself : exec (.call nnn) s = .next s := exec_call_of_full nnn s hfull
  exact ⟨hself, fun hf n => runSteps_of_exec_self (hf ▸ hself) n⟩

/-- Settles O31: an empty stack makes RET write nothing. -/
theorem returnOnEmptyStackHangs : Obligations.ReturnOnEmptyStackHangs := by
  unfold Obligations.ReturnOnEmptyStackHangs
  exact fun s hempty hf n => runSteps_of_exec_self (hf ▸ exec_ret_of_empty s hempty) n

/-- Settles O46: with no key down FX0A writes nothing. -/
theorem keyWaitWritesNothing : Obligations.KeyWaitWritesNothing := by
  unfold Obligations.KeyWaitWritesNothing
  intro x s hkeys
  have hself : exec (.ldVxK x) s = .next s := exec_ldVxK_none x s ((lowestKey_eq_none_iff s).2 hkeys)
  exact ⟨hself, fun hf n => runSteps_of_exec_self (hf ▸ hself) n⟩

/-! ### Sequential runs (R102) -/

/-- Before the end of a program that fits in memory, `pc` is below 0x1000. -/
theorem pc_lt_of_running {s : State} (hlen : s.PROG_LEN ≤ 0xE00) (h : s.ended = false) : s.pc.toNat < 0x1000 := by
  have := (ended_eq_false_iff s).1 h
  omega

/-- An advance below 0x1000 does not wrap. -/
theorem toNat_add_two {w : Word} (h : w.toNat < 0x1000) : (w + 2).toNat = w.toNat + 2 := by
  rw [BitVec.toNat_add, show (2 : Word).toNat = 2 from rfl]
  omega

theorem toNat_add_four {w : Word} (h : w.toNat < 0x1000) : (w + 4).toNat = w.toNat + 4 := by
  rw [BitVec.toNat_add, show (4 : Word).toNat = 4 from rfl]
  omega

/-- Settles O16: a running `pc` is below 0x1000, and at 0x1000 every program has ended. -/
theorem pcNeverWrapsWhileRunning : Obligations.PcNeverWrapsWhileRunning := by
  unfold Obligations.PcNeverWrapsWhileRunning
  intro s hlen
  refine ⟨fun hrun => ?_, fun hpc => step_of_ended s ((ended_iff s).2 (by omega))⟩
  have hlt := pc_lt_of_running hlen hrun
  exact ⟨toNat_add_two hlt, toNat_add_four hlt⟩

/-- The instructions that go on to the next word advance `pc` by 2. -/
theorem pc_of_goesOn {i : Instr} {s t : State} (hi : goesOn i = true) (h : exec i s = .next t) : t.pc = s.pc + 2 := by
  cases i
  case ret | jp | call | seImm | sneImm | seReg | sneReg | jpV0 | skp | sknp | ldVxK => simp [goesOn] at hi
  all_goals rw [← Host.Outcome.next.inj h]; rfl

/-- Along a sequential run `pc` moves by 2 at each step and the program's length stays. -/
theorem sequentialRun_pc (k : Nat) (s t : State) (hlen : s.PROG_LEN ≤ 0xE00) (h : SequentialRun k s t) :
    t.pc.toNat = s.pc.toNat + 2 * k ∧ t.PROG_LEN = s.PROG_LEN := by
  induction k generalizing s with
  | zero => obtain rfl : t = s := h; exact ⟨rfl, rfl⟩
  | succ k ih =>
    obtain ⟨hrun, hgo, u, hstep, hrest⟩ := h
    rw [step_of_not_ended s hrun] at hstep
    obtain ⟨-, hlenu, -⟩ := exec_keeps_host_fields hstep
    have hpcu : u.pc.toNat = s.pc.toNat + 2 := by
      rw [pc_of_goesOn hgo hstep, toNat_add_two (pc_lt_of_running hlen hrun)]
    obtain ⟨hpc, hlent⟩ := ih u (hlenu ▸ hlen) hrest
    exact ⟨by omega, hlent.trans hlenu⟩

/-- Settles O15: `pc` moves by 2k, and the end test compares it with PROG_END. -/
theorem sequentialRunReachesProgramEnd : Obligations.SequentialRunReachesProgramEnd := by
  unfold Obligations.SequentialRunReachesProgramEnd
  intro k s t hlen hrun
  obtain ⟨hpc, hlent⟩ := sequentialRun_pc k s t hlen hrun
  refine ⟨hpc, hlent, fun hstart => ?_⟩
  rw [ended_iff, hpc, hlent, hstart]
  omega

end Sys2Proof.Machine
end

section
/-! SUPPORT. The host's operations and the invariant (46_host_interface.md R240 to R251): what each operation writes,
that every instruction and every operation keeps the invariant, and that the end of a program is final. -/

namespace Sys2Proof.Machine

/-! ### The frames of the host's operations -/

theorem changesOnly_setKEY (s : State) (k : Fin 16) (down : Bool) :
    ChangesOnly (among [.key k]) s (s.setKEY k down) := by
  intro part hpart
  cases part
  case key j =>
    have hne : k.val ≠ j.val := fun h => hpart (by simp [among, Fin.ext h])
    exact Vector.getElem_set_ne k.isLt j.isLt hne
  all_goals rfl

theorem changesOnly_setDIRTY (s : State) (b : Bool) : ChangesOnly (among [.dirty]) s (s.setDIRTY b) := by
  intro part hpart
  cases part
  case dirty => exact absurd (by simp [among]) hpart
  all_goals rfl

/-- The bytes of an image of `n` bytes at 0x200, PROG_LEN and LOADED: what a load may write (R241). -/
def loadMayWrite (n : Nat) (part : Part) : Prop :=
  part ∈ [.progLen, .loaded] ∨ ∃ a, part = .mem a ∧ 0x200 ≤ a % 4096 ∧ a % 4096 < 0x200 + n

/-- An image that fits is written below 0x1000, so its addresses do not wrap. -/
theorem changesOnly_load (s : State) (bytes : List Byte) (hlen : bytes.length ≤ 0xE00) :
    ChangesOnly (loadMayWrite bytes.length) s
      ((s.setMEM (Memory.writeBytes s.MEM 0x200 bytes)).setLoaded bytes.length) := by
  intro part hpart
  cases part
  case mem a =>
    refine Memory.read_writeBytes_outside bytes s.MEM 0x200 a fun k hk haddr => hpart (.inr ⟨a, rfl, ?_⟩)
    simp only [Memory.addr] at haddr
    omega
  case progLen | loaded => exact absurd (by simp [loadMayWrite]) hpart
  all_goals rfl

theorem loadProgram_of_fits (bytes : List Byte) (s : State) (hnew : s.LOADED = false) (hlen : bytes.length ≤ 0xE00) :
    loadProgram bytes s =
      (.ok, (s.setMEM (Memory.writeBytes s.MEM 0x200 bytes)).setLoaded bytes.length) := by
  rw [loadProgram, if_neg]
  simp [hnew, Nat.not_lt.2 hlen]

theorem loadProgram_of_fails (bytes : List Byte) (s : State) (h : s.LOADED = true ∨ 0xE00 < bytes.length) :
    loadProgram bytes s = (.loadError, s) := by
  rw [loadProgram, if_pos h]

/-- A load copies an image that fits, once, or fails and writes nothing. -/
theorem loadProgram_cases (bytes : List Byte) (s : State) :
    (s.LOADED = false ∧ bytes.length ≤ 0xE00 ∧ loadProgram bytes s =
      (.ok, (s.setMEM (Memory.writeBytes s.MEM 0x200 bytes)).setLoaded bytes.length)) ∨
    loadProgram bytes s = (.loadError, s) := by
  by_cases h : s.LOADED = true ∨ 0xE00 < bytes.length
  · exact .inr (loadProgram_of_fails bytes s h)
  · rw [not_or, Bool.not_eq_true, Nat.not_lt] at h
    exact .inl ⟨h.1, h.2, loadProgram_of_fits bytes s h.1 h.2⟩

theorem setKey_of_lt (k : Fin 16) (down : Bool) (s : State) : setKey k.val down s = (.ok, s.setKEY k down) :=
  dif_pos k.isLt

theorem setKey_of_ge (code : Nat) (down : Bool) (s : State) (h : 0xF < code) :
    setKey code down s = (.invalidKey, s) :=
  dif_neg (Nat.not_lt.2 h)

/-- A key event writes one key, or fails and writes nothing. -/
theorem setKey_cases (code : Nat) (down : Bool) (s : State) :
    (∃ k : Fin 16, code = k.val ∧ setKey code down s = (.ok, s.setKEY k down)) ∨
      setKey code down s = (.invalidKey, s) := by
  by_cases h : code < 16
  · exact .inl ⟨⟨code, h⟩, rfl, setKey_of_lt ⟨code, h⟩ down s⟩
  · exact .inr (setKey_of_ge code down s (Nat.not_lt.1 h))

/-- The parts the host changes without a step once a program is loaded: the timers, the keys and DIRTY (R249). -/
def hostParts (part : Part) : Prop := part ∈ [.dt, .st, .dirty] ∨ ∃ k, part = .key k

/-- What an operation other than a step can do: a load that succeeds, or writes to the host's parts alone. -/
theorem applyOp_cases {op : HostOp} {s t : State} {r : HostResult} (hop : ∀ rnd, op ≠ .step rnd)
    (h : applyOp op s = .next (r, t)) :
    (∃ bytes, s.LOADED = false ∧ bytes.length ≤ 0xE00 ∧
      t = (s.setMEM (Memory.writeBytes s.MEM 0x200 bytes)).setLoaded bytes.length) ∨
    (t.MEM = s.MEM ∧ ChangesOnly hostParts s t) := by
  have key (code : Nat) (down : Bool) (hk : setKey code down s = (r, t)) :
      t.MEM = s.MEM ∧ ChangesOnly hostParts s t := by
    obtain ⟨k, -, he⟩ | he := setKey_cases code down s <;> obtain ⟨-, rfl⟩ := Prod.mk.inj (he.symm.trans hk)
    · exact ⟨rfl, (changesOnly_setKEY s k down).mono fun _ hpart => .inr ⟨k, List.mem_singleton.1 hpart⟩⟩
    · exact ⟨rfl, changesOnly_refl _ s⟩
  have answer {u : HostResult × State} (hu : applyOp op s = .next u) : u = (r, t) :=
    Host.Outcome.next.inj (hu.symm.trans h)
  cases op
  case step rnd => exact absurd rfl (hop rnd)
  case loadProgram bytes =>
    obtain ⟨hnew, hlen, he⟩ | he := loadProgram_cases bytes s <;>
      obtain ⟨-, rfl⟩ := Prod.mk.inj (he.symm.trans (answer rfl))
    · exact .inl ⟨bytes, hnew, hlen, rfl⟩
    · exact .inr ⟨rfl, changesOnly_refl _ s⟩
  case keyDown code => exact .inr (key code true (answer rfl))
  case keyUp code => exact .inr (key code false (answer rfl))
  case tickTimers =>
    obtain ⟨-, rfl⟩ := Prod.mk.inj (answer rfl)
    refine .inr ⟨rfl, (changesOnly_setDT_setST s _ _).mono fun _ hpart => .inl ?_⟩
    exact (show [Part.dt, .st] ⊆ [.dt, .st, .dirty] by simp) hpart
  case clearDirty =>
    obtain ⟨-, rfl⟩ := Prod.mk.inj (answer rfl)
    refine .inr ⟨rfl, (changesOnly_setDIRTY s false).mono fun _ hpart => .inl ?_⟩
    exact (show [Part.dirty] ⊆ [.dt, .st, .dirty] by simp) hpart
  case framebuffer | dirty | soundTimer =>
    obtain ⟨-, rfl⟩ := Prod.mk.inj (answer rfl)
    exact .inr ⟨rfl, changesOnly_refl _ _⟩

/-! ### The invariant -/

/-- The invariant reads memory, the stack, PROG_LEN and LOADED: a state with the same four has it too. -/
theorem inv_of_same_fields {s t : State} (hinv : s.Inv) (hmem : t.MEM = s.MEM) (hstack : t.stack = s.stack)
    (hlen : t.PROG_LEN = s.PROG_LEN) (hloaded : t.LOADED = s.LOADED) : t.Inv := by
  rwa [State.Inv, hmem, hstack, hlen, hloaded]

/-- Memory after an instruction: as it was, or with bytes stored at `I`. -/
theorem exec_MEM {i : Instr} {s t : State} (h : exec i s = .next t) :
    t.MEM = s.MEM ∨ ∃ bs, t.MEM = Memory.writeBytes s.MEM s.I.toNat bs := by
  cases i
  case ret =>
    rw [exec_unique h (exec_ret s)]
    obtain ⟨a, rest, -, he⟩ | ⟨-, he⟩ := s.returnFromCall_cases <;> rw [he] <;> exact .inl rfl
  case call nnn =>
    rw [exec_unique h (exec_call nnn s)]
    obtain ⟨-, he⟩ | ⟨-, he⟩ := s.callTo_cases (nnn.setWidth 16) stackDepth <;> rw [he] <;> exact .inl rfl
  case ldVxK x =>
    obtain ⟨-, he⟩ | ⟨k, -, he⟩ := exec_ldVxK_cases x s <;> rw [exec_unique h he] <;> exact .inl rfl
  case ldB | stRegs => rw [← Host.Outcome.next.inj h]; exact .inr ⟨_, rfl⟩
  all_goals rw [← Host.Outcome.next.inj h]; exact .inl rfl

/-- The stack stays within its depth: a call pushes only where there is room. -/
theorem exec_stack_length {i : Instr} {s t : State} (h : exec i s = .next t) (hs : s.stack.length ≤ stackDepth) :
    t.stack.length ≤ stackDepth := by
  by_cases hsame : t.stack = s.stack
  · rwa [hsame]
  obtain ⟨nnn, rfl⟩ | rfl := (mayWrite_stack s i).1 (mayWrite_of_changed (part := .stack) h hsame)
  · rw [exec_unique h (exec_call nnn s)]
    obtain ⟨hroom, he⟩ | ⟨-, he⟩ := s.callTo_cases (nnn.setWidth 16) stackDepth <;> rw [he]
    · exact hroom
    · exact hs
  · rw [exec_unique h (exec_ret s)]
    obtain ⟨a, rest, hst, he⟩ | ⟨-, he⟩ := s.returnFromCall_cases <;> rw [he]
    · rw [hst] at hs
      exact (Nat.le_succ _).trans hs
    · exact hs

/-- Every instruction keeps the invariant. -/
theorem inv_of_exec {i : Instr} {s t : State} (hinv : s.Inv) (h : exec i s = .next t) : t.Inv := by
  obtain ⟨hwf, hstack, hlen, hloaded⟩ := hinv
  obtain ⟨-, hlen', hloaded'⟩ := exec_keeps_host_fields h
  refine ⟨?_, exec_stack_length h hstack, hlen' ▸ hlen, hlen'.symm ▸ hloaded'.symm ▸ hloaded⟩
  obtain hmem | ⟨bs, hmem⟩ := exec_MEM h <;> rw [hmem]
  · exact hwf
  · exact Memory.wf_writeBytes bs s.MEM s.I.toNat hwf

/-- Every `step(rnd)` keeps the invariant: it writes nothing, or runs an instruction, or is RND with the host's byte. -/
theorem inv_of_stepPath {rnd : Byte} {s t : State} {r : StepResult} (hinv : s.Inv) (h : StepPath rnd s r t) :
    t.Inv := by
  cases h with
  | ended | waiting => exact hinv
  | rnd => exact inv_of_same_fields hinv rfl rfl rfl rfl
  | ran _ _ _ _ ht => exact inv_of_exec hinv ht

/-- A load that fits keeps the invariant (R35, R241). -/
theorem inv_of_load {s : State} (bytes : List Byte) (hinv : s.Inv) (hlen : bytes.length ≤ 0xE00) :
    ((s.setMEM (Memory.writeBytes s.MEM 0x200 bytes)).setLoaded bytes.length).Inv := by
  obtain ⟨hwf, hstack, -, -⟩ := hinv
  exact ⟨Memory.wf_writeBytes bytes s.MEM 0x200 hwf, hstack, hlen, fun h => absurd h (by simp)⟩

/-- Every operation of the host answers, and keeps the invariant. -/
theorem inv_of_applyOp (op : HostOp) {s : State} (hinv : s.Inv) : ∃ r t, applyOp op s = .next (r, t) ∧ t.Inv := by
  obtain ⟨r, t, h, -, -⟩ := recordOp_of_applyOp .spec s op
  refine ⟨r, t, h, ?_⟩
  by_cases hop : ∃ rnd, op = .step rnd
  · obtain ⟨rnd, rfl⟩ := hop
    obtain ⟨q, -, hpath⟩ := stepPath_of_stepWith h
    exact inv_of_stepPath hinv hpath
  · obtain ⟨bytes, -, hlen, rfl⟩ | ⟨hmem, hframe⟩ := applyOp_cases (fun rnd he => hop ⟨rnd, he⟩) h
    · exact inv_of_load bytes hinv hlen
    · exact inv_of_same_fields hinv hmem (hframe .stack (by simp [hostParts])) (hframe .progLen (by simp [hostParts]))
        (hframe .loaded (by simp [hostParts]))

/-- Settles O19: nothing is listed in memory, on the stack or as loaded. -/
theorem resetMeetsInvariant : Obligations.ResetMeetsInvariant := by
  unfold Obligations.ResetMeetsInvariant
  exact ⟨Memory.wf_nil, by decide, by decide, fun _ => rfl⟩

/-- Settles O20: a step writes nothing or is one instruction, and every instruction keeps the invariant. -/
theorem stepKeepsInvariant : Obligations.StepKeepsInvariant := by
  unfold Obligations.StepKeepsInvariant
  intro s t hinv h
  obtain ⟨-, rfl⟩ | ⟨-, hexec⟩ := step_cases s t h
  · exact hinv
  · exact inv_of_exec hinv hexec

/-- Settles O21, by induction on the list of operations: each one answers and keeps the invariant. -/
theorem everyHostRunIsSafe : Obligations.EveryHostRunIsSafe := by
  unfold Obligations.EveryHostRunIsSafe
  intro ops
  induction ops with
  | nil => exact fun s hinv => ⟨s, rfl, hinv⟩
  | cons op ops ih =>
    intro s hinv
    obtain ⟨r, t, h, hinvt⟩ := inv_of_applyOp op hinv
    obtain ⟨u, hrun, hinvu⟩ := ih t hinvt
    exact ⟨u, by rw [runOps, h]; exact hrun, hinvu⟩

/-! ### The end of a program is final (R250) -/

/-- Once a loaded program has ended, an operation of the host writes the host's parts alone. -/
theorem applyOp_of_ended {op : HostOp} {s t : State} {r : HostResult} (hloaded : s.LOADED = true)
    (hend : s.ended = true) (h : applyOp op s = .next (r, t)) : ChangesOnly hostParts s t := by
  by_cases hop : ∃ rnd, op = .step rnd
  · obtain ⟨rnd, rfl⟩ := hop
    have hself : applyOp (.step rnd) s = .next (.stepped .programEnded, s) := stepWith_of_ended rnd s hend
    obtain ⟨-, rfl⟩ := Prod.mk.inj (Host.Outcome.next.inj (hself.symm.trans h))
    exact changesOnly_refl _ _
  · obtain ⟨bytes, hnew, -⟩ | ⟨-, hframe⟩ := applyOp_cases (fun rnd he => hop ⟨rnd, he⟩) h
    · simp [hloaded] at hnew
    · exact hframe

/-- The host's parts decide neither whether a program is loaded nor whether it has ended. -/
theorem loaded_and_ended_of_hostParts {s t : State} (h : ChangesOnly hostParts s t) :
    t.LOADED = s.LOADED ∧ t.ended = s.ended := by
  have hpc : t.pc = s.pc := h .pc (by simp [hostParts])
  have hlen : t.PROG_LEN = s.PROG_LEN := h .progLen (by simp [hostParts])
  exact ⟨h .loaded (by simp [hostParts]), by rw [State.ended, State.progEnd, hpc, hlen, State.ended, State.progEnd]⟩

/-- What a run of at least one operation is. -/
theorem runOps_cons {op : HostOp} {ops : List HostOp} {s u : State} (h : runOps (op :: ops) s = .next u) :
    ∃ r t, applyOp op s = .next (r, t) ∧ runOps ops t = .next u := by
  obtain ⟨r, t, ht, -, -⟩ := recordOp_of_applyOp .spec s op
  rw [runOps, ht] at h
  exact ⟨r, t, ht, h⟩

/-- Settles O22, by induction on the list of operations: each one writes the host's parts alone, so the program stays
loaded and ended. -/
theorem programEndIsTerminal : Obligations.ProgramEndIsTerminal := by
  unfold Obligations.ProgramEndIsTerminal
  intro ops
  induction ops with
  | nil =>
    intro s t _ hend h
    obtain rfl : s = t := Host.Outcome.next.inj h
    exact ⟨hend, changesOnly_refl _ s⟩
  | cons op ops ih =>
    intro s u hloaded hend h
    obtain ⟨r, t, ht, hrest⟩ := runOps_cons h
    have hframe : ChangesOnly hostParts s t := applyOp_of_ended hloaded hend ht
    obtain ⟨hl, he⟩ := loaded_and_ended_of_hostParts hframe
    obtain ⟨hendu, hframeu⟩ := ih t u (hl.trans hloaded) (he.trans hend) hrest
    exact ⟨hendu, hframe.trans hframeu⟩

/-! ### The statements of the host's operations -/

/-- Settles O23: a load writes memory, PROG_LEN and LOADED, and only before one; every other operation writes the
host's parts. -/
theorem hostCannotTouchProgramState : Obligations.HostCannotTouchProgramState := by
  unfold Obligations.HostCannotTouchProgramState
  intro op s t r hop h
  obtain ⟨bytes, hnew, -, rfl⟩ | ⟨-, hframe⟩ := applyOp_cases hop h
  · exact ⟨fun _ => rfl, rfl, rfl, rfl, fun _ _ => rfl, fun hloaded => absurd hloaded (by simp [hnew])⟩
  · exact ⟨fun k => hframe (.v k) (by simp [hostParts]), hframe .i (by simp [hostParts]),
      hframe .pc (by simp [hostParts]), hframe .stack (by simp [hostParts]),
      fun x y => hframe (.pixel x y) (by simp [hostParts]), fun _ a => hframe (.mem a) (by simp [hostParts])⟩

/-- Settles O58: one key for a code up to 0xF, and nothing for a greater code. -/
theorem keyEventsWriteOneKey : Obligations.KeyEventsWriteOneKey := by
  unfold Obligations.KeyEventsWriteOneKey
  intro code s
  have event (k : Fin 16) (down : Bool) : (s.setKEY k down).KEY[k.val] = down ∧
      ChangesOnly (among [.key k]) s (s.setKEY k down) :=
    ⟨Vector.getElem_set_self k.isLt, changesOnly_setKEY s k down⟩
  refine ⟨?_, fun hcode => ⟨?_, ?_⟩⟩
  · rintro k rfl
    exact ⟨⟨_, congrArg Host.Outcome.next (setKey_of_lt k true s), event k true⟩,
      ⟨_, congrArg Host.Outcome.next (setKey_of_lt k false s), event k false⟩⟩
  · exact congrArg Host.Outcome.next (setKey_of_ge code true s hcode)
  · exact congrArg Host.Outcome.next (setKey_of_ge code false s hcode)

/-- Settles O59: the image is one store at 0x200, which at most 0xE00 bytes cannot wrap. -/
theorem loadProgramCopiesImageOnce : Obligations.LoadProgramCopiesImageOnce := by
  unfold Obligations.LoadProgramCopiesImageOnce
  intro bytes s
  refine ⟨fun hnew hlen => ⟨_, congrArg Host.Outcome.next (loadProgram_of_fits bytes s hnew hlen), fun j hj => ?_, rfl,
    rfl, changesOnly_load s bytes hlen⟩, fun h => congrArg Host.Outcome.next (loadProgram_of_fails bytes s h)⟩
  exact Memory.read_writeBytes_inside bytes s.MEM 0x200 j hj (by omega)

/-- Settles O60: the reads hand out a field, and `clear_dirty` is one write to DIRTY. -/
theorem hostReadsAndClearDirty : Obligations.HostReadsAndClearDirty := by
  unfold Obligations.HostReadsAndClearDirty
  exact fun s => ⟨rfl, rfl, rfl, s.setDIRTY false, rfl, rfl, changesOnly_setDIRTY s false⟩

end Sys2Proof.Machine
end

section
/-! SUPPORT. Memory as an instruction reaches it (20_memory.md R52 to R65, 44_memory_transfer.md R203 to R206): every
access goes by the low 12 bits of its address, what a fetch sees after a store, and the two block transfers. -/

namespace Sys2Proof.Machine

/-! ### Only the low 12 bits of an address count (R52) -/

/-- Two addresses that reach the same byte reach the same bytes from there on. -/
theorem addr_add_congr {a a' : Nat} (h : Memory.addr a = Memory.addr a') (k : Nat) :
    Memory.addr (a + k) = Memory.addr (a' + k) :=
  Nat.ModEq.add_right k h

theorem read_congr {a a' : Nat} (h : Memory.addr a = Memory.addr a') (m : List Host.Cell) :
    Memory.read m a = Memory.read m a' := by
  rw [Memory.read, h, Memory.read]

theorem write_congr {a a' : Nat} (h : Memory.addr a = Memory.addr a') (m : List Host.Cell) (b : Byte) :
    Memory.write m a b = Memory.write m a' b := by
  rw [Memory.write, h, Memory.write]

theorem writeBytes_congr {a a' : Nat} (h : Memory.addr a = Memory.addr a') (m : List Host.Cell) (bs : List Byte) :
    Memory.writeBytes m a bs = Memory.writeBytes m a' bs := by
  induction bs generalizing m a a' with
  | nil => rfl
  | cons b bs ih => rw [Memory.writeBytes, Memory.writeBytes, write_congr h, ih (addr_add_congr h 1)]

theorem drawRows_congr {a a' : Nat} (h : Memory.addr a = Memory.addr a') (m : List Host.Cell) (x0 y0 n : Nat)
    (c : Canvas) : drawRows m a x0 y0 n c = drawRows m a' x0 y0 n c := by
  induction n with
  | zero => rfl
  | succ n ih => rw [drawRows, drawRows, ih, read_congr (addr_add_congr h n)]

theorem loadFirstRegs_setI {s : State} {w : Word} (h : Memory.addr w.toNat = Memory.addr s.I.toNat) (x : Reg) :
    (s.setI w).loadFirstRegs x = s.loadFirstRegs x := by
  simp only [State.loadFirstRegs, State.readByte, State.setI_I, State.setI_MEM, State.readV_setI]
  congr 1
  funext k
  rw [read_congr (addr_add_congr h k.val)]

/-- A 16-bit address moved by a multiple of 4096 reaches the same byte. -/
theorem addr_toNat_add_mul (a w : Word) : Memory.addr (a + 4096 * w).toNat = Memory.addr a.toNat := by
  simp only [Memory.addr, BitVec.toNat_add, BitVec.toNat_mul, show (4096 : Word).toNat = 4096 from rfl]
  omega

/-- The fetch depends on `pc` only by the byte it reaches. -/
theorem fetchWord_congr {s t : State} (hM : t.MEM = s.MEM) (h : Memory.addr t.pc.toNat = Memory.addr s.pc.toNat) :
    t.fetchWord = s.fetchWord := by
  rw [State.fetchWord, State.readByte, State.readByte, hM, read_congr h, read_congr (addr_add_congr h 1)]
  rfl

/-- Settles O7: each access is a read, a write or a chain of them, and those go by the low 12 bits. -/
theorem addressesUseLowTwelveBits : Obligations.AddressesUseLowTwelveBits := by
  unfold Obligations.AddressesUseLowTwelveBits
  refine ⟨fun m a a' b => ?_, fun s w => ⟨fetchWord_congr rfl (addr_toNat_add_mul s.pc w), fun x y n i hi => ?_⟩⟩
  · have haddr : Memory.addr a = Memory.addr (a % 4096) := (Nat.mod_mod a 4096).symm
    have hmul : Memory.addr (a + 4096 * a') = Memory.addr a := Nat.add_mul_mod_self_left a 4096 a'
    exact ⟨read_congr haddr m, write_congr haddr m b, by rw [Memory.read_write, if_pos hmul]⟩
  · have hI : Memory.addr (s.I + 4096 * w).toNat = Memory.addr s.I.toNat := addr_toNat_add_mul s.I w
    simp only [List.mem_cons, List.not_mem_nil, or_false] at hi
    obtain rfl | rfl | rfl | rfl := hi
    · refine ⟨_, exec_drw x y n s, ?_⟩
      rw [exec_drw, drawnCanvas, State.setI_I, drawRows_congr hI]
      rfl
    · refine ⟨_, exec_ldB x s, ?_⟩
      rw [exec_ldB, State.setI_I, writeBytes_congr hI]
      rfl
    · refine ⟨_, exec_stRegs x s, ?_⟩
      rw [exec_stRegs, State.setI_I, writeBytes_congr hI]
      rfl
    · refine ⟨_, exec_ldRegs x s, ?_⟩
      rw [exec_ldRegs, loadFirstRegs_setI hI]
      rfl

/-! ### The fetched word (R53, R55) -/

theorem toNat_wordOfBytes (hi lo : Byte) : (wordOfBytes hi lo).toNat = 256 * hi.toNat + lo.toNat := by
  rw [wordOfBytes, BitVec.toNat_append, ← Nat.shiftLeft_add_eq_or_of_lt lo.isLt, Nat.shiftLeft_eq, Nat.mul_comm]

/-- Settles O8: the high byte first, and a read goes by the low 12 bits of its address. -/
theorem fetchIsBigEndianByteByByte : Obligations.FetchIsBigEndianByteByByte := by
  unfold Obligations.FetchIsBigEndianByteByByte
  intro s
  have hread (a : Nat) : s.readByte (a % 4096) = s.readByte a := s.readByte_addr a .spec
  rw [State.fetchWord, toNat_wordOfBytes, hread, hread]

/-! ### The block transfers (R204, R205) -/

/-- The state FX55 leaves. -/
abbrev storedRegs (s : State) (x : Reg) : State :=
  (s.setMEM (Memory.writeBytes s.MEM s.I.toNat (s.firstRegs x))).advance

/-- After FX55, element `k` of the range is `V[k]`. -/
theorem readByte_storedRegs (s : State) (x k : Reg) (hk : k ≤ x) :
    (storedRegs s x).readByte (s.elementAddr k.val) = s.readV k := by
  have hlt : k.val < (s.firstRegs x).length := by
    rw [State.length_firstRegs]
    exact Nat.lt_succ_of_le hk
  have hlen : (s.firstRegs x).length ≤ 4096 := by
    rw [State.length_firstRegs]
    omega
  rw [storedRegs, readByte_elementAddr_writeBytes s (s.firstRegs x) hlen k.val hlt, State.getElem_firstRegs]

/-- Settles O53: one store of the registers at `I`. -/
theorem registersStored : Obligations.RegistersStored := by
  unfold Obligations.RegistersStored
  exact fun x s => ⟨storedRegs s x, exec_stRegs x s, readByte_storedRegs s x, State.advance_pc _,
    changesOnly_mayWrite (.stRegs x) s _ (exec_stRegs x s)⟩

/-- What FX65 leaves in each register. -/
theorem readV_loadedRegs (s : State) (x k : Reg) :
    (s.setAllV (s.loadFirstRegs x)).advance.readV k =
      if k ≤ x then s.readByte (s.elementAddr k.val) else s.readV k := by
  rw [State.readV_advance, State.readV_setAllV, State.getElem_loadFirstRegs, State.elementAddr, State.readByte_addr]

/-- Settles O54: one load of the registers from `I`. -/
theorem registersLoaded : Obligations.RegistersLoaded := by
  unfold Obligations.RegistersLoaded
  exact fun x s => ⟨_, exec_ldRegs x s, fun k hk => (readV_loadedRegs s x k).trans (if_pos hk), State.advance_pc _,
    changesOnly_mayWrite (.ldRegs x) s _ (exec_ldRegs x s)⟩

/-- Settles O55: element `k` of the store is what the load takes into `V[k]`. -/
theorem storeThenLoadRestoresRegisters : Obligations.StoreThenLoadRestoresRegisters := by
  unfold Obligations.StoreThenLoadRestoresRegisters
  intro x x' s t u hstore hle hM hI
  obtain rfl : t = storedRegs s x := exec_unique hstore (exec_stRegs x s)
  refine ⟨_, exec_ldRegs x' u, fun k => ?_⟩
  rw [readV_loadedRegs]
  by_cases hk : k ≤ x'
  · have hread : u.readByte (u.elementAddr k.val) = (storedRegs s x).readByte (s.elementAddr k.val) := by
      rw [State.elementAddr, hI, State.readByte, hM]
      rfl
    rw [if_pos hk, if_pos hk, hread, readByte_storedRegs s x k (hk.trans hle)]
  · rw [if_neg hk, if_neg hk]

/-- Settles O17: the two bytes of the next word are elements 0 and 1 of the store. -/
theorem storedInstructionIsFetchedNext : Obligations.StoredInstructionIsFetchedNext := by
  unfold Obligations.StoredInstructionIsFetchedNext
  intro x s hx hI
  refine ⟨storedRegs s x, exec_stRegs x s, ?_⟩
  have hnext : Memory.addr (storedRegs s x).pc.toNat = Memory.addr s.I.toNat := by
    simp only [Memory.addr, State.advance_pc, State.setMEM_pc, BitVec.toNat_add, show (2 : Word).toNat = 2 from rfl]
    omega
  have hread (k : Reg) (hk : k ≤ x) : (storedRegs s x).readByte ((storedRegs s x).pc.toNat + k.val) = s.readV k := by
    rw [← readByte_storedRegs s x k hk, State.elementAddr, State.readByte_addr]
    exact read_congr (addr_add_congr hnext k.val) _
  rw [State.fetchWord, ← hread 0 (Fin.zero_le x), ← hread 1 hx]
  rfl

end Sys2Proof.Machine
end

section
/-! SUPPORT. The sprite draw (42_display.md R161 to R168): a draw flips a set of pixels, each once, and reports whether
one of them was set. The set is followed from one sprite bit to a row of it and to the whole sprite. -/

namespace Sys2Proof.Machine

/-! ### Flipping a set of pixels -/

/-- `c'` is `c` with exactly the pixels of `covers` flipped, each once, and `hit` raised by those that were set. -/
structure Flips (covers : Fin 64 → Fin 32 → Prop) (c c' : Canvas) : Prop where
  covered : ∀ px py, covers px py → pixelOf c'.fb px py = !pixelOf c.fb px py
  other : ∀ px py, ¬ covers px py → pixelOf c'.fb px py = pixelOf c.fb px py
  hit : c'.hit = true ↔ c.hit = true ∨ ∃ px py, covers px py ∧ pixelOf c.fb px py = true

variable {A B : Fin 64 → Fin 32 → Prop} {c c' c'' : Canvas}

theorem flips_none (c : Canvas) (h : ∀ px py, ¬ A px py) : Flips A c c where
  covered px py ha := absurd ha (h px py)
  other _ _ _ := rfl
  hit := by simp [h]

theorem Flips.congr (h : Flips A c c') (hAB : ∀ px py, A px py ↔ B px py) : Flips B c c' := by
  obtain rfl : A = B := funext fun px => funext fun py => propext (hAB px py)
  exact h

/-- Two sets with no pixel in common, one after the other: the second sees its pixels as they were before the first. -/
theorem Flips.union (hA : Flips A c c') (hB : Flips B c' c'') (hdis : ∀ px py, A px py → ¬ B px py) :
    Flips (fun px py => A px py ∨ B px py) c c'' where
  covered px py hab := by
    obtain ha | hb := hab
    · rw [hB.other px py (hdis px py ha), hA.covered px py ha]
    · rw [hB.covered px py hb, hA.other px py fun ha => hdis px py ha hb]
  other px py hab := by
    rw [not_or] at hab
    rw [hB.other px py hab.2, hA.other px py hab.1]
  hit := by
    have hpixel (px py) (hb : B px py) : pixelOf c'.fb px py = pixelOf c.fb px py :=
      hA.other px py fun ha => hdis px py ha hb
    have hsecond : (∃ px py, B px py ∧ pixelOf c'.fb px py = true) ↔ ∃ px py, B px py ∧ pixelOf c.fb px py = true :=
      exists₂_congr fun px py => and_congr_right fun hb => by rw [hpixel px py hb]
    rw [hB.hit, hA.hit, hsecond, or_assoc]
    simp only [or_and_right, exists_or]

/-! ### From a bit to the sprite -/

/-- One set sprite bit flips the pixel at its reduced coordinates. -/
theorem flips_drawBit (x y : Nat) (c : Canvas) :
    Flips (fun px py => px = columnOf x ∧ py = rowOfCoord y) c (drawBit x y c) where
  covered px py h := by simp [h.1, h.2]
  other px py h := by
    have hne : ¬ (columnOf x = px ∧ rowOfCoord y = py) := fun e => h ⟨e.1.symm, e.2.symm⟩
    simp [hne]
  hit := by simp

theorem columnOf_eq_iff (x : Nat) (px : Fin 64) : px = columnOf x ↔ px.val = x % 64 := Fin.ext_iff

theorem rowOfCoord_eq_iff (y : Nat) (py : Fin 32) : py = rowOfCoord y ↔ py.val = y % 32 := Fin.ext_iff

/-- The pixels of the first `n` columns of a sprite row. -/
def RowCovers (b : Byte) (x0 y n : Nat) (px : Fin 64) (py : Fin 32) : Prop :=
  ∃ k < n, b.getLsbD (7 - k) = true ∧ px = columnOf (x0 + k) ∧ py = rowOfCoord y

theorem rowCovers_succ (b : Byte) (x0 y n : Nat) (px : Fin 64) (py : Fin 32) :
    RowCovers b x0 y (n + 1) px py ↔
      RowCovers b x0 y n px py ∨ (b.getLsbD (7 - n) = true ∧ px = columnOf (x0 + n) ∧ py = rowOfCoord y) :=
  Nat.exists_lt_succ_right

/-- A row of at most 64 columns does not run into itself. -/
theorem flips_drawColumns (b : Byte) (x0 y n : Nat) (hn : n ≤ 64) (c : Canvas) :
    Flips (RowCovers b x0 y n) c (drawColumns b x0 y n c) := by
  induction n with
  | zero => exact flips_none c fun _ _ ⟨_, hk, _⟩ => Nat.not_lt_zero _ hk
  | succ n ih =>
    have ih := ih (Nat.le_of_succ_le hn)
    rw [drawColumns]
    by_cases hbit : b.getLsbD (7 - n) = true
    · rw [if_pos hbit]
      refine (ih.union (flips_drawBit (x0 + n) y _) ?_).congr fun px py => ?_
      · rintro px py ⟨k, hk, -, hpx, -⟩ ⟨hpx', -⟩
        rw [columnOf_eq_iff] at hpx hpx'
        omega
      · rw [rowCovers_succ, and_iff_right hbit]
    · rw [if_neg hbit]
      refine ih.congr fun px py => ?_
      rw [rowCovers_succ, or_iff_left fun h => hbit h.1]

/-- The pixels of the first `n` rows of a sprite in memory at `a`. -/
def RowsCover (m : List Host.Cell) (a x0 y0 n : Nat) (px : Fin 64) (py : Fin 32) : Prop :=
  ∃ r < n, RowCovers (Memory.read m (a + r)) x0 (y0 + r) 8 px py

/-- A sprite of at most 32 rows does not run into itself. -/
theorem flips_drawRows (m : List Host.Cell) (a x0 y0 n : Nat) (hn : n ≤ 32) (c : Canvas) :
    Flips (RowsCover m a x0 y0 n) c (drawRows m a x0 y0 n c) := by
  induction n with
  | zero => exact flips_none c fun _ _ ⟨_, hr, _⟩ => Nat.not_lt_zero _ hr
  | succ n ih =>
    have ih := ih (Nat.le_of_succ_le hn)
    rw [drawRows]
    refine (ih.union (flips_drawColumns _ x0 (y0 + n) 8 (by decide) _) ?_).congr fun px py =>
      Nat.exists_lt_succ_right.symm
    rintro px py ⟨r, hr, -, -, -, -, hpy⟩ ⟨-, -, -, -, hpy'⟩
    rw [rowOfCoord_eq_iff] at hpy hpy'
    omega

/-- The pixels of the drawn rows are those the sprite covers. -/
theorem rowsCover_iff_spriteCovers (s : State) (x y : Reg) (n : Nibble) (px : Fin 64) (py : Fin 32) :
    RowsCover s.MEM s.I.toNat (s.readV x).toNat (s.readV y).toNat n.toNat px py ↔ SpriteCovers s x y n px py := by
  simp only [RowsCover, RowCovers, SpriteCovers, columnOf_eq_iff, rowOfCoord_eq_iff, State.readByte]

/-- The draw flips the pixels the sprite covers. -/
theorem flips_drawnCanvas (s : State) (x y : Reg) (n : Nibble) :
    Flips (SpriteCovers s x y n) ⟨s.FB, false⟩ (drawnCanvas s x y n) :=
  (flips_drawRows _ _ _ _ _ (by omega) _).congr (rowsCover_iff_spriteCovers s x y n)

/-! ### The instructions -/

/-- The state DRW leaves. -/
abbrev drawnState (s : State) (x y : Reg) (n : Nibble) : State :=
  (((s.setFB (drawnCanvas s x y n).fb).setV vF (flagByte (drawnCanvas s x y n).hit)).setDIRTY true).advance

theorem flagByte_eq_one_iff (c : Bool) : flagByte c = 1 ↔ c = true := by cases c <;> decide

theorem flagByte_eq_zero_iff (c : Bool) : flagByte c = 0 ↔ c = false := by cases c <;> decide

theorem readV_vF_drawnState (s : State) (x y : Reg) (n : Nibble) :
    (drawnState s x y n).readV vF = flagByte (drawnCanvas s x y n).hit := by
  simp [drawnState]

/-- A draw collides exactly if it covers a set pixel (R165). -/
theorem drawnCanvas_hit (s : State) (x y : Reg) (n : Nibble) : (drawnCanvas s x y n).hit = true ↔
    ∃ px py, SpriteCovers s x y n px py ∧ pixelOf s.FB px py = true := by
  rw [(flips_drawnCanvas s x y n).hit]
  simp

/-- Settles O43: CLS writes the cleared screen. -/
theorem clearUnsetsEveryPixel : Obligations.ClearUnsetsEveryPixel := by
  unfold Obligations.ClearUnsetsEveryPixel
  exact fun s => ⟨_, exec_cls s, pixelOf_blankScreen, rfl, State.advance_pc _,
    changesOnly_setFB_setDIRTY_advance s blankScreen true⟩

/-- Settles O44: the draw flips the covered pixels, each once, and its flag is the collision. -/
theorem drawFlipsCoveredPixels : Obligations.DrawFlipsCoveredPixels := by
  unfold Obligations.DrawFlipsCoveredPixels
  intro x y n s
  have hflips := flips_drawnCanvas s x y n
  refine ⟨drawnState s x y n, exec_drw x y n s, fun px py => ⟨hflips.covered px py, hflips.other px py⟩, fun hset => ?_,
    fun hclear => ?_, rfl, State.advance_pc _, changesOnly_setFB_setV_setDIRTY_advance s _ _ true⟩
  · rw [readV_vF_drawnState, flagByte_eq_one_iff]
    exact (drawnCanvas_hit s x y n).2 hset
  · rw [readV_vF_drawnState, flagByte_eq_zero_iff, ← Bool.not_eq_true, drawnCanvas_hit]
    rintro ⟨px, py, hcov, hset⟩
    simp [hclear px py hcov] at hset

/-- A draw leaves memory and `I`, so from the same coordinates the next one covers the same pixels. -/
theorem spriteCovers_drawnState {s : State} {x y x' y' : Reg} (n : Nibble)
    (hx : (drawnState s x y n).readV x' = s.readV x) (hy : (drawnState s x y n).readV y' = s.readV y)
    (px : Fin 64) (py : Fin 32) : SpriteCovers (drawnState s x y n) x' y' n px py ↔ SpriteCovers s x y n px py := by
  rw [SpriteCovers, hx, hy]
  rfl

/-- Settles O45: both draws flip the same set, and a covered pixel is set after the first exactly if it was not
before. -/
theorem drawingTwiceCancels : Obligations.DrawingTwiceCancels := by
  unfold Obligations.DrawingTwiceCancels
  intro x y x' y' n s t ht hx hy
  obtain rfl : t = drawnState s x y n := exec_unique ht (exec_drw x y n s)
  have hfirst := flips_drawnCanvas s x y n
  have hsecond := (flips_drawnCanvas (drawnState s x y n) x' y' n).congr (spriteCovers_drawnState n hx hy)
  refine ⟨_, exec_drw x' y' n _, fun px py => ?_, ?_⟩
  · by_cases hcov : SpriteCovers s x y n px py
    · exact (hsecond.covered px py hcov).trans (Bool.not_eq_eq_eq_not.2 (hfirst.covered px py hcov))
    · exact (hsecond.other px py hcov).trans (hfirst.other px py hcov)
  · rw [readV_vF_drawnState, flagByte_eq_one_iff, drawnCanvas_hit]
    refine exists₂_congr fun px py => ?_
    rw [spriteCovers_drawnState n hx hy]
    refine and_congr_right fun hcov => ?_
    rw [show pixelOf (drawnState s x y n).FB px py = _ from hfirst.covered px py hcov, Bool.not_eq_true']

end Sys2Proof.Machine
end

section
/-! SUPPORT. What single instructions leave: the value each writes, by the operation it is one call of, and its frame
(40_fetch_control.md to 45_timers.md); and what construction leaves (10_state.md R38). -/

namespace Sys2Proof.Machine

/-! ### Construction -/

/-- Settles O18: the fields by evaluation, and a byte past the font's 80 is past the list's end. -/
theorem resetLeavesConstructionValues : Obligations.ResetLeavesConstructionValues := by
  unfold Obligations.ResetLeavesConstructionValues
  refine ⟨by decide, rfl, rfl, rfl, rfl, rfl, pixelOf_blankScreen, by decide, rfl, rfl, rfl, fun a ha => ?_⟩
  rw [readByte_reset .spec a ha, Params.spec_fontBase, Params.spec_fontData]
  have hlen : fontData.length = 80 := by decide
  by_cases hbase : fontBase ≤ a
  · by_cases hfont : a < fontBase + 80
    · rw [if_pos hbase, if_pos ⟨hbase, hfont⟩]
    · rw [if_pos hbase, if_neg fun h => hfont h.2, List.getD_eq_default _ _ (by omega)]
  · rw [if_neg hbase, if_neg fun h => hbase h.1]

/-! ### Call and return (R103 to R106) -/

theorem exec_call_of_room (nnn : Addr12) (s : State) (h : s.stack.length < stackDepth) :
    exec (.call nnn) s = .next ((s.setStack ((s.pc + 2) :: s.stack)).setPc (nnn.setWidth 16)) := by
  rw [exec_call, State.callTo, if_pos h]

theorem exec_ret_of_cons (s : State) (a : Word) (rest : List Word) (h : s.stack = a :: rest) :
    exec .ret s = .next ((s.setStack rest).setPc a) := by
  rw [exec_ret, State.returnFromCall, h]

/-- Settles O28: one push and one write to `pc`. -/
theorem callPushesNextAddress : Obligations.CallPushesNextAddress := by
  unfold Obligations.CallPushesNextAddress
  exact fun nnn s hroom => ⟨_, exec_call_of_room nnn s hroom, toNat_jumpTarget nnn, rfl,
    changesOnly_setStack_setPc s _ _⟩

/-- Settles O30: one pop into `pc`, or nothing. -/
theorem returnPopsNewestEntry : Obligations.ReturnPopsNewestEntry := by
  unfold Obligations.ReturnPopsNewestEntry
  refine ⟨fun a rest s hstack => ⟨_, exec_ret_of_cons s a rest hstack, rfl, rfl, changesOnly_setStack_setPc s rest a,
    fun hend => ?_⟩, exec_ret_of_empty⟩
  exact (ended_setPc_iff (s.setStack rest) a).2 hend

/-- Settles O32: RET pops what CALL pushed. -/
theorem callThenReturnRestores : Obligations.CallThenReturnRestores := by
  unfold Obligations.CallThenReturnRestores
  intro nnn s t u hroom ht hstack
  rw [exec_unique ht (exec_call_of_room nnn s hroom)] at hstack
  exact ⟨_, exec_ret_of_cons u (s.pc + 2) s.stack hstack, rfl, rfl⟩

/-! ### Skips (R109 to R112, R183, R184) -/

/-- A skip on `P` goes 4 on if `P` holds, else 2. -/
theorem pc_skipIf_of_iff (s : State) {c : Bool} {P : Prop} [Decidable P] (h : c = true ↔ P) :
    (s.skipIf c).pc = s.pc + if P then 4 else 2 := by
  rw [State.skipIf_pc, apply_ite (s.pc + ·)]
  simp only [h]

/-- A skip on the contrary of `P` goes 2 on if `P` holds, else 4. -/
theorem pc_skipIf_of_iff_not (s : State) {c : Bool} {P : Prop} [Decidable P] (h : c = true ↔ ¬ P) :
    (s.skipIf c).pc = s.pc + if P then 2 else 4 := by
  rw [pc_skipIf_of_iff s h, ite_not]

theorem beq_iff_toNat_eq (a b : Byte) : (a == b) = true ↔ a.toNat = b.toNat := by
  rw [beq_iff_eq, BitVec.toNat_inj]

theorem bne_iff_toNat_ne (a b : Byte) : (a != b) = true ↔ ¬ a.toNat = b.toNat := by
  rw [bne_iff_ne, BitVec.toNat_inj]

/-- Settles O33: the skip's condition is equality of the two bytes, or its contrary. -/
theorem immediateSkipsCompare : Obligations.ImmediateSkipsCompare := by
  unfold Obligations.ImmediateSkipsCompare
  exact fun x nn s =>
    ⟨⟨_, exec_seImm x nn s, changesOnly_skipIf s _, pc_skipIf_of_iff s (beq_iff_toNat_eq _ _)⟩,
      ⟨_, exec_sneImm x nn s, changesOnly_skipIf s _, pc_skipIf_of_iff_not s (bne_iff_toNat_ne _ _)⟩⟩

/-- Settles O34: as for the immediate skips, whatever the low nibble. -/
theorem registerSkipsCompare : Obligations.RegisterSkipsCompare := by
  unfold Obligations.RegisterSkipsCompare
  exact fun x y n s =>
    ⟨⟨_, exec_seReg x y n s, changesOnly_skipIf s _, pc_skipIf_of_iff s (beq_iff_toNat_eq _ _)⟩,
      ⟨_, exec_sneReg x y n s, changesOnly_skipIf s _, pc_skipIf_of_iff_not s (bne_iff_toNat_ne _ _)⟩⟩

/-- Settles O48: the skip's condition is the one key that `V[x]` names, and no key above 0xF. -/
theorem keySkipsTestOneKey : Obligations.KeySkipsTestOneKey := by
  unfold Obligations.KeySkipsTestOneKey
  intro x s
  refine ⟨_, _, exec_skp x s, changesOnly_skipIf s _, exec_sknp x s, changesOnly_skipIf s _, fun k hk => ?_,
    fun habove => ?_⟩
  · have hkey : s.keyIsDown (s.readV x).toNat = s.KEY[k.val] := by rw [hk, s.keyIsDown_lt k.val k.isLt]
    rw [hkey]
    exact ⟨pc_skipIf_of_iff s Iff.rfl, pc_skipIf_of_iff_not s (by simp)⟩
  · rw [s.keyIsDown_ge _ habove]
    exact ⟨rfl, rfl⟩

/-! ### One register written (R132 to R137, R143, R182, R222) -/

theorem readV_setV_advance_self (s : State) (x : Reg) (b : Byte) : (s.setV x b).advance.readV x = b := by
  simp

/-- Settles O36: one register write of the immediate or of the sum. -/
theorem immediateLoadAndAdd : Obligations.ImmediateLoadAndAdd := by
  unfold Obligations.ImmediateLoadAndAdd
  refine fun x nn s =>
    ⟨⟨_, exec_ldImm x nn s, readV_setV_advance_self s x nn, State.advance_pc _, changesOnly_setV_advance s x nn⟩,
      ⟨_, exec_addImm x nn s, ?_, State.advance_pc _, changesOnly_setV_advance s x _⟩⟩
  rw [readV_setV_advance_self]
  exact BitVec.toNat_add _ _

/-- Settles O38: one register write of the word-wide operation, which is the operation on each bit. -/
theorem logicOperationsAreBitwise : Obligations.LogicOperationsAreBitwise := by
  unfold Obligations.LogicOperationsAreBitwise
  refine fun x y s =>
    ⟨⟨_, exec_orReg x y s, State.advance_pc _, changesOnly_setV_advance s x _, fun b _ => ?_⟩,
      ⟨_, exec_andReg x y s, State.advance_pc _, changesOnly_setV_advance s x _, fun b _ => ?_⟩,
      ⟨_, exec_xorReg x y s, State.advance_pc _, changesOnly_setV_advance s x _, fun b _ => ?_⟩⟩
  · rw [readV_setV_advance_self, BitVec.getLsbD_or]
  · rw [readV_setV_advance_self, BitVec.getLsbD_and]
  · rw [readV_setV_advance_self, BitVec.getLsbD_xor]

/-- RND leaves the masked byte, bit by bit. -/
theorem getLsbD_readV_rndWith (s : State) (rnd : Byte) (x : Reg) (nn : Byte) (b : Nat) :
    ((s.rndWith rnd x nn).readV x).getLsbD b = (rnd.getLsbD b && nn.getLsbD b) := by
  rw [State.rndWith, readV_setV_advance_self, BitVec.getLsbD_and]

/-- Settles O42: the same masked write, of the free byte in `exec` and of the host's byte in `step(rnd)`. -/
theorem randomByteIsMasked : Obligations.RandomByteIsMasked := by
  unfold Obligations.RandomByteIsMasked
  refine fun x nn s => ⟨⟨_, exec_rnd x nn s, State.advance_pc _, State.countRnd_rndCount _,
    changesOnly_rndWith_countRnd s _ x nn, fun b _ => getLsbD_readV_rndWith s _ x nn b⟩, fun rnd hpc hf => ?_⟩
  exact ⟨_, _, stepWith_rnd rnd s x nn ((ended_eq_false_iff s).2 hpc) hf, State.advance_pc _,
    changesOnly_setV_advance s x _, fun b _ => getLsbD_readV_rndWith s rnd x nn b⟩

/-- The lowest key is the key that is down with none below it. -/
theorem lowestKey_eq_some (s : State) (k : Fin 16) (hk : s.KEY[k.val] = true)
    (hlow : ∀ j : Fin 16, j < k → s.KEY[j.val] = false) : s.lowestKey = some k.val := by
  refine List.find?_range_eq_some.2 ⟨(s.keyIsDown_lt k.val k.isLt).trans hk, List.mem_range.2 k.isLt, fun j hj => ?_⟩
  have hj16 : j < 16 := hj.trans k.isLt
  rw [s.keyIsDown_lt j hj16, hlow ⟨j, hj16⟩ hj]
  rfl

/-- Settles O47: one register write of the lowest key. -/
theorem keyWaitTakesLowestKey : Obligations.KeyWaitTakesLowestKey := by
  unfold Obligations.KeyWaitTakesLowestKey
  intro x k s hk hlow
  refine ⟨_, exec_ldVxK_some x s k.val (lowestKey_eq_some s k hk hlow), ?_, State.advance_pc _,
    changesOnly_setV_advance s x _⟩
  rw [readV_setV_advance_self, BitVec.toNat_ofNat]
  exact Nat.mod_eq_of_lt (k.isLt.trans (by decide))

/-- Settles O56: one write of a register or of a timer. -/
theorem timerMoves : Obligations.TimerMoves := by
  unfold Obligations.TimerMoves
  exact fun x s =>
    ⟨⟨_, exec_ldVxDT x s, readV_setV_advance_self s x s.DT, State.advance_pc _, changesOnly_setV_advance s x _⟩,
      ⟨_, exec_ldDTVx x s, rfl, State.advance_pc _, changesOnly_setDT_advance s _⟩,
      ⟨_, exec_ldSTVx x s, rfl, State.advance_pc _, changesOnly_setST_advance s _⟩⟩

/-- Settles O49: one write to `I`. -/
theorem loadAddressRegister : Obligations.LoadAddressRegister := by
  unfold Obligations.LoadAddressRegister
  exact fun nnn s => ⟨_, exec_ldI nnn s, toNat_jumpTarget nnn, State.advance_pc _, changesOnly_setI_advance s _⟩

/-! ### A result and its flag (R131, R138 to R142) -/

/-- What an instruction with a flag leaves: its result unless VF is the destination, and always its flag. -/
theorem resultAndFlag_written (s : State) (x : Reg) {result : Byte} {flag : Bool} {r f : Nat}
    (hr : result.toNat = r) (hf : (flagByte flag).toNat = f) :
    (x ≠ vF → ((s.setResultAndFlag x result flag).advance.readV x).toNat = r) ∧
      ((s.setResultAndFlag x result flag).advance.readV vF).toNat = f ∧
      (s.setResultAndFlag x result flag).advance.pc = s.pc + 2 ∧
      ChangesOnly (among [.v x, .v vF, .pc]) s (s.setResultAndFlag x result flag).advance := by
  refine ⟨fun hx => ?_, ?_, rfl, changesOnly_setResultAndFlag_advance s x result flag⟩
  · rw [State.readV_advance, State.readV_setResultAndFlag, if_neg hx, if_pos rfl, hr]
  · rw [State.readV_advance, State.readV_setResultAndFlag, if_pos rfl, hf]

theorem toNat_carry (a b : Byte) : (flagByte (carries a b)).toNat = if a.toNat + b.toNat > 255 then 1 else 0 := by
  simp only [toNat_flagByte, carries, decide_eq_true_eq]

theorem toNat_noBorrow (a b : Byte) : (flagByte (noBorrow a b)).toNat = if a.toNat < b.toNat then 0 else 1 := by
  rw [toNat_flagByte, noBorrow]
  by_cases h : a.toNat < b.toNat <;> simp [h]

theorem toNat_sub_byte (a b : Byte) : (a - b).toNat = (a.toNat + 256 - b.toNat) % 256 := by
  have hb : b.toNat < 256 := b.isLt
  rw [BitVec.toNat_sub]
  omega

theorem toNat_shiftRight_one (a : Byte) : (a >>> 1).toNat = a.toNat / 2 :=
  (BitVec.toNat_ushiftRight a 1).trans (Nat.shiftRight_eq_div_pow _ 1)

theorem toNat_shiftLeft_one (a : Byte) : (a <<< 1).toNat = a.toNat * 2 % 256 := by
  rw [BitVec.toNat_shiftLeft, Nat.shiftLeft_eq]

theorem toNat_shiftedOutRight (a : Byte) : (flagByte (shiftedOutRight a)).toNat = a.toNat % 2 := by
  rw [toNat_flagByte, shiftedOutRight, BitVec.getLsbD, Nat.testBit_zero]
  simp only [decide_eq_true_eq]
  split <;> omega

theorem toNat_shiftedOutLeft (a : Byte) : (flagByte (shiftedOutLeft a)).toNat = a.toNat / 128 := by
  have ha : a.toNat < 256 := a.isLt
  rw [toNat_flagByte, shiftedOutLeft, BitVec.getLsbD, Nat.testBit_eq_decide_div_mod_eq]
  simp only [decide_eq_true_eq]
  split <;> omega

/-- Settles O39: the sum with its carry. -/
theorem addWritesSumAndCarry : Obligations.AddWritesSumAndCarry := by
  unfold Obligations.AddWritesSumAndCarry
  exact fun x y s => ⟨_, exec_addReg x y s, resultAndFlag_written s x (BitVec.toNat_add _ _) (toNat_carry _ _)⟩

/-- Settles O40: the difference with NOT borrow, for either order of the operands. -/
theorem subtractWritesDifferenceAndNoBorrow : Obligations.SubtractWritesDifferenceAndNoBorrow := by
  unfold Obligations.SubtractWritesDifferenceAndNoBorrow
  exact fun x y s =>
    ⟨⟨_, exec_subReg x y s, resultAndFlag_written s x (toNat_sub_byte _ _) (toNat_noBorrow _ _)⟩,
      ⟨_, exec_subnReg x y s, resultAndFlag_written s x (toNat_sub_byte _ _) (toNat_noBorrow _ _)⟩⟩

/-- Settles O41: the shift with the bit it moves out, for either direction. -/
theorem shiftsMoveOneBitOut : Obligations.ShiftsMoveOneBitOut := by
  unfold Obligations.ShiftsMoveOneBitOut
  exact fun x y s =>
    ⟨⟨_, exec_shr x y s, resultAndFlag_written s x (toNat_shiftRight_one _) (toNat_shiftedOutRight _)⟩,
      ⟨_, exec_shl x y s, resultAndFlag_written s x (toNat_shiftLeft_one _) (toNat_shiftedOutLeft _)⟩⟩

end Sys2Proof.Machine
end
